-- ==== Sys2Proof/Word.lean ====
section
/-! DEFINITION. The two widths of the machine: bytes and 16-bit words (00_scope.md R7). -/

namespace Sys2Proof

/-- A byte: 8 bits, `$00` to `$FF` (00_scope.md R7). -/
abbrev Byte := BitVec 8

/-- A word: 16 bits, an address or a program counter value (00_scope.md R7). -/
abbrev Word := BitVec 16

end Sys2Proof
end

