-- ==== Sys2Proof/Syntax.lean ====
section
/-! DEFINITION. The instructions: one constructor per row of spec/opcode_table.json (30_encoding.md R100),
the operand forms of the thirteen addressing modes (R81), and the mnemonic and operand form of each. -/

namespace Sys2Proof

/-- The eight addressing modes with an effective address read from the instruction's operand bytes
(30_encoding.md R85 to R92), each with its operand. -/
inductive MemMode where
  /-- Zero Page -/
  | zp (b : Byte)
  /-- Zero Page,X -/
  | zpx (b : Byte)
  /-- Zero Page,Y -/
  | zpy (b : Byte)
  /-- Absolute -/
  | abs (w : Word)
  /-- Absolute,X -/
  | absx (w : Word)
  /-- Absolute,Y -/
  | absy (w : Word)
  /-- (Indirect,X) -/
  | indx (b : Byte)
  /-- (Indirect),Y -/
  | indy (b : Byte)
  deriving DecidableEq, Repr

/-- Where an instruction of the read kind gets its operand byte `M` (30_encoding.md R84, R95). -/
inductive Source where
  /-- #Immediate: the byte after the opcode -/
  | imm (b : Byte)
  /-- the byte at the effective address -/
  | mem (m : MemMode)
  deriving DecidableEq, Repr

/-- The operand forms of the thirteen addressing modes (30_encoding.md R81). -/
inductive Operand where
  /-- Implied -/
  | imp
  /-- Accumulator -/
  | acc
  /-- #Immediate and the eight memory modes -/
  | src (s : Source)
  /-- Relative: the signed offset (R93) -/
  | rel (offset : Int)
  /-- (Indirect): the pointer's address (R94) -/
  | ind (p : Word)
  deriving DecidableEq, Repr

/-- The 56 official mnemonics (00_scope.md R2), in the order of their families. -/
inductive Op where
  | lda | sta | ldx | stx | ldy | sty
  | tax | txa | tay | tya
  | adc | sbc | inc | dec | inx | dex | iny | dey
  | asl | lsr | rol | ror
  | and | ora | eor | bit
  | cmp | cpx | cpy
  | bcc | bcs | beq | bne | bpl | bmi | bvc | bvs
  | jmp | jsr | rts | brk | rti
  | pha | pla | php | plp | txs | tsx
  | clc | sec | cli | sei | cld | sed | clv | nop
  deriving DecidableEq, Repr

/-- The instructions, one constructor per row of spec/opcode_table.json. `b` is a one-byte operand, `w` a
two-byte operand put together low byte first (30_encoding.md R80), `offset` the signed offset of a branch
(R93), `p` the pointer address of JMP (Indirect) (R94). -/
inductive Instr where
  -- Access (40_access.md)
  | ldaImm (b : Byte)
  | ldaZp (b : Byte)
  | ldaZpx (b : Byte)
  | ldaAbs (w : Word)
  | ldaAbsx (w : Word)
  | ldaAbsy (w : Word)
  | ldaIndx (b : Byte)
  | ldaIndy (b : Byte)
  | staZp (b : Byte)
  | staZpx (b : Byte)
  | staAbs (w : Word)
  | staAbsx (w : Word)
  | staAbsy (w : Word)
  | staIndx (b : Byte)
  | staIndy (b : Byte)
  | ldxImm (b : Byte)
  | ldxZp (b : Byte)
  | ldxZpy (b : Byte)
  | ldxAbs (w : Word)
  | ldxAbsy (w : Word)
  | stxZp (b : Byte)
  | stxZpy (b : Byte)
  | stxAbs (w : Word)
  | ldyImm (b : Byte)
  | ldyZp (b : Byte)
  | ldyZpx (b : Byte)
  | ldyAbs (w : Word)
  | ldyAbsx (w : Word)
  | styZp (b : Byte)
  | styZpx (b : Byte)
  | styAbs (w : Word)
  -- Transfer (41_transfer.md)
  | tax
  | txa
  | tay
  | tya
  -- Arithmetic (42_arithmetic.md)
  | adcImm (b : Byte)
  | adcZp (b : Byte)
  | adcZpx (b : Byte)
  | adcAbs (w : Word)
  | adcAbsx (w : Word)
  | adcAbsy (w : Word)
  | adcIndx (b : Byte)
  | adcIndy (b : Byte)
  | sbcImm (b : Byte)
  | sbcZp (b : Byte)
  | sbcZpx (b : Byte)
  | sbcAbs (w : Word)
  | sbcAbsx (w : Word)
  | sbcAbsy (w : Word)
  | sbcIndx (b : Byte)
  | sbcIndy (b : Byte)
  | incZp (b : Byte)
  | incZpx (b : Byte)
  | incAbs (w : Word)
  | incAbsx (w : Word)
  | decZp (b : Byte)
  | decZpx (b : Byte)
  | decAbs (w : Word)
  | decAbsx (w : Word)
  | inx
  | dex
  | iny
  | dey
  -- Shift (43_shift.md)
  | aslAcc
  | aslZp (b : Byte)
  | aslZpx (b : Byte)
  | aslAbs (w : Word)
  | aslAbsx (w : Word)
  | lsrAcc
  | lsrZp (b : Byte)
  | lsrZpx (b : Byte)
  | lsrAbs (w : Word)
  | lsrAbsx (w : Word)
  | rolAcc
  | rolZp (b : Byte)
  | rolZpx (b : Byte)
  | rolAbs (w : Word)
  | rolAbsx (w : Word)
  | rorAcc
  | rorZp (b : Byte)
  | rorZpx (b : Byte)
  | rorAbs (w : Word)
  | rorAbsx (w : Word)
  -- Bitwise (44_bitwise.md)
  | andImm (b : Byte)
  | andZp (b : Byte)
  | andZpx (b : Byte)
  | andAbs (w : Word)
  | andAbsx (w : Word)
  | andAbsy (w : Word)
  | andIndx (b : Byte)
  | andIndy (b : Byte)
  | oraImm (b : Byte)
  | oraZp (b : Byte)
  | oraZpx (b : Byte)
  | oraAbs (w : Word)
  | oraAbsx (w : Word)
  | oraAbsy (w : Word)
  | oraIndx (b : Byte)
  | oraIndy (b : Byte)
  | eorImm (b : Byte)
  | eorZp (b : Byte)
  | eorZpx (b : Byte)
  | eorAbs (w : Word)
  | eorAbsx (w : Word)
  | eorAbsy (w : Word)
  | eorIndx (b : Byte)
  | eorIndy (b : Byte)
  | bitZp (b : Byte)
  | bitAbs (w : Word)
  -- Compare (45_compare.md)
  | cmpImm (b : Byte)
  | cmpZp (b : Byte)
  | cmpZpx (b : Byte)
  | cmpAbs (w : Word)
  | cmpAbsx (w : Word)
  | cmpAbsy (w : Word)
  | cmpIndx (b : Byte)
  | cmpIndy (b : Byte)
  | cpxImm (b : Byte)
  | cpxZp (b : Byte)
  | cpxAbs (w : Word)
  | cpyImm (b : Byte)
  | cpyZp (b : Byte)
  | cpyAbs (w : Word)
  -- Branch (46_branch.md)
  | bcc (offset : Int)
  | bcs (offset : Int)
  | beq (offset : Int)
  | bne (offset : Int)
  | bpl (offset : Int)
  | bmi (offset : Int)
  | bvc (offset : Int)
  | bvs (offset : Int)
  -- Jump (47_jump.md)
  | jmpAbs (w : Word)
  | jmpInd (p : Word)
  | jsr (w : Word)
  | rts
  | brk
  | rti
  -- Stack (48_stack.md)
  | pha
  | pla
  | php
  | plp
  | txs
  | tsx
  -- Flags and NOP (49_flags_other.md)
  | clc
  | sec
  | cli
  | sei
  | cld
  | sed
  | clv
  | nop
  deriving DecidableEq, Repr

/-- The mnemonic and the operand form of each instruction: the columns "mnemonic" and "format" of
spec/opcode_table.json. Statements that hold for every form of an instruction speak through it. -/
def Instr.shape : Instr → Op × Operand
  | .ldaImm b => (.lda, .src (.imm b))
  | .ldaZp b => (.lda, .src (.mem (.zp b)))
  | .ldaZpx b => (.lda, .src (.mem (.zpx b)))
  | .ldaAbs w => (.lda, .src (.mem (.abs w)))
  | .ldaAbsx w => (.lda, .src (.mem (.absx w)))
  | .ldaAbsy w => (.lda, .src (.mem (.absy w)))
  | .ldaIndx b => (.lda, .src (.mem (.indx b)))
  | .ldaIndy b => (.lda, .src (.mem (.indy b)))
  | .staZp b => (.sta, .src (.mem (.zp b)))
  | .staZpx b => (.sta, .src (.mem (.zpx b)))
  | .staAbs w => (.sta, .src (.mem (.abs w)))
  | .staAbsx w => (.sta, .src (.mem (.absx w)))
  | .staAbsy w => (.sta, .src (.mem (.absy w)))
  | .staIndx b => (.sta, .src (.mem (.indx b)))
  | .staIndy b => (.sta, .src (.mem (.indy b)))
  | .ldxImm b => (.ldx, .src (.imm b))
  | .ldxZp b => (.ldx, .src (.mem (.zp b)))
  | .ldxZpy b => (.ldx, .src (.mem (.zpy b)))
  | .ldxAbs w => (.ldx, .src (.mem (.abs w)))
  | .ldxAbsy w => (.ldx, .src (.mem (.absy w)))
  | .stxZp b => (.stx, .src (.mem (.zp b)))
  | .stxZpy b => (.stx, .src (.mem (.zpy b)))
  | .stxAbs w => (.stx, .src (.mem (.abs w)))
  | .ldyImm b => (.ldy, .src (.imm b))
  | .ldyZp b => (.ldy, .src (.mem (.zp b)))
  | .ldyZpx b => (.ldy, .src (.mem (.zpx b)))
  | .ldyAbs w => (.ldy, .src (.mem (.abs w)))
  | .ldyAbsx w => (.ldy, .src (.mem (.absx w)))
  | .styZp b => (.sty, .src (.mem (.zp b)))
  | .styZpx b => (.sty, .src (.mem (.zpx b)))
  | .styAbs w => (.sty, .src (.mem (.abs w)))
  | .tax => (.tax, .imp)
  | .txa => (.txa, .imp)
  | .tay => (.tay, .imp)
  | .tya => (.tya, .imp)
  | .adcImm b => (.adc, .src (.imm b))
  | .adcZp b => (.adc, .src (.mem (.zp b)))
  | .adcZpx b => (.adc, .src (.mem (.zpx b)))
  | .adcAbs w => (.adc, .src (.mem (.abs w)))
  | .adcAbsx w => (.adc, .src (.mem (.absx w)))
  | .adcAbsy w => (.adc, .src (.mem (.absy w)))
  | .adcIndx b => (.adc, .src (.mem (.indx b)))
  | .adcIndy b => (.adc, .src (.mem (.indy b)))
  | .sbcImm b => (.sbc, .src (.imm b))
  | .sbcZp b => (.sbc, .src (.mem (.zp b)))
  | .sbcZpx b => (.sbc, .src (.mem (.zpx b)))
  | .sbcAbs w => (.sbc, .src (.mem (.abs w)))
  | .sbcAbsx w => (.sbc, .src (.mem (.absx w)))
  | .sbcAbsy w => (.sbc, .src (.mem (.absy w)))
  | .sbcIndx b => (.sbc, .src (.mem (.indx b)))
  | .sbcIndy b => (.sbc, .src (.mem (.indy b)))
  | .incZp b => (.inc, .src (.mem (.zp b)))
  | .incZpx b => (.inc, .src (.mem (.zpx b)))
  | .incAbs w => (.inc, .src (.mem (.abs w)))
  | .incAbsx w => (.inc, .src (.mem (.absx w)))
  | .decZp b => (.dec, .src (.mem (.zp b)))
  | .decZpx b => (.dec, .src (.mem (.zpx b)))
  | .decAbs w => (.dec, .src (.mem (.abs w)))
  | .decAbsx w => (.dec, .src (.mem (.absx w)))
  | .inx => (.inx, .imp)
  | .dex => (.dex, .imp)
  | .iny => (.iny, .imp)
  | .dey => (.dey, .imp)
  | .aslAcc => (.asl, .acc)
  | .aslZp b => (.asl, .src (.mem (.zp b)))
  | .aslZpx b => (.asl, .src (.mem (.zpx b)))
  | .aslAbs w => (.asl, .src (.mem (.abs w)))
  | .aslAbsx w => (.asl, .src (.mem (.absx w)))
  | .lsrAcc => (.lsr, .acc)
  | .lsrZp b => (.lsr, .src (.mem (.zp b)))
  | .lsrZpx b => (.lsr, .src (.mem (.zpx b)))
  | .lsrAbs w => (.lsr, .src (.mem (.abs w)))
  | .lsrAbsx w => (.lsr, .src (.mem (.absx w)))
  | .rolAcc => (.rol, .acc)
  | .rolZp b => (.rol, .src (.mem (.zp b)))
  | .rolZpx b => (.rol, .src (.mem (.zpx b)))
  | .rolAbs w => (.rol, .src (.mem (.abs w)))
  | .rolAbsx w => (.rol, .src (.mem (.absx w)))
  | .rorAcc => (.ror, .acc)
  | .rorZp b => (.ror, .src (.mem (.zp b)))
  | .rorZpx b => (.ror, .src (.mem (.zpx b)))
  | .rorAbs w => (.ror, .src (.mem (.abs w)))
  | .rorAbsx w => (.ror, .src (.mem (.absx w)))
  | .andImm b => (.and, .src (.imm b))
  | .andZp b => (.and, .src (.mem (.zp b)))
  | .andZpx b => (.and, .src (.mem (.zpx b)))
  | .andAbs w => (.and, .src (.mem (.abs w)))
  | .andAbsx w => (.and, .src (.mem (.absx w)))
  | .andAbsy w => (.and, .src (.mem (.absy w)))
  | .andIndx b => (.and, .src (.mem (.indx b)))
  | .andIndy b => (.and, .src (.mem (.indy b)))
  | .oraImm b => (.ora, .src (.imm b))
  | .oraZp b => (.ora, .src (.mem (.zp b)))
  | .oraZpx b => (.ora, .src (.mem (.zpx b)))
  | .oraAbs w => (.ora, .src (.mem (.abs w)))
  | .oraAbsx w => (.ora, .src (.mem (.absx w)))
  | .oraAbsy w => (.ora, .src (.mem (.absy w)))
  | .oraIndx b => (.ora, .src (.mem (.indx b)))
  | .oraIndy b => (.ora, .src (.mem (.indy b)))
  | .eorImm b => (.eor, .src (.imm b))
  | .eorZp b => (.eor, .src (.mem (.zp b)))
  | .eorZpx b => (.eor, .src (.mem (.zpx b)))
  | .eorAbs w => (.eor, .src (.mem (.abs w)))
  | .eorAbsx w => (.eor, .src (.mem (.absx w)))
  | .eorAbsy w => (.eor, .src (.mem (.absy w)))
  | .eorIndx b => (.eor, .src (.mem (.indx b)))
  | .eorIndy b => (.eor, .src (.mem (.indy b)))
  | .bitZp b => (.bit, .src (.mem (.zp b)))
  | .bitAbs w => (.bit, .src (.mem (.abs w)))
  | .cmpImm b => (.cmp, .src (.imm b))
  | .cmpZp b => (.cmp, .src (.mem (.zp b)))
  | .cmpZpx b => (.cmp, .src (.mem (.zpx b)))
  | .cmpAbs w => (.cmp, .src (.mem (.abs w)))
  | .cmpAbsx w => (.cmp, .src (.mem (.absx w)))
  | .cmpAbsy w => (.cmp, .src (.mem (.absy w)))
  | .cmpIndx b => (.cmp, .src (.mem (.indx b)))
  | .cmpIndy b => (.cmp, .src (.mem (.indy b)))
  | .cpxImm b => (.cpx, .src (.imm b))
  | .cpxZp b => (.cpx, .src (.mem (.zp b)))
  | .cpxAbs w => (.cpx, .src (.mem (.abs w)))
  | .cpyImm b => (.cpy, .src (.imm b))
  | .cpyZp b => (.cpy, .src (.mem (.zp b)))
  | .cpyAbs w => (.cpy, .src (.mem (.abs w)))
  | .bcc offset => (.bcc, .rel offset)
  | .bcs offset => (.bcs, .rel offset)
  | .beq offset => (.beq, .rel offset)
  | .bne offset => (.bne, .rel offset)
  | .bpl offset => (.bpl, .rel offset)
  | .bmi offset => (.bmi, .rel offset)
  | .bvc offset => (.bvc, .rel offset)
  | .bvs offset => (.bvs, .rel offset)
  | .jmpAbs w => (.jmp, .src (.mem (.abs w)))
  | .jmpInd p => (.jmp, .ind p)
  | .jsr w => (.jsr, .src (.mem (.abs w)))
  | .rts => (.rts, .imp)
  | .brk => (.brk, .imp)
  | .rti => (.rti, .imp)
  | .pha => (.pha, .imp)
  | .pla => (.pla, .imp)
  | .php => (.php, .imp)
  | .plp => (.plp, .imp)
  | .txs => (.txs, .imp)
  | .tsx => (.tsx, .imp)
  | .clc => (.clc, .imp)
  | .sec => (.sec, .imp)
  | .cli => (.cli, .imp)
  | .sei => (.sei, .imp)
  | .cld => (.cld, .imp)
  | .sed => (.sed, .imp)
  | .clv => (.clv, .imp)
  | .nop => (.nop, .imp)

/-- The mnemonic of an instruction. -/
def Instr.op (i : Instr) : Op := i.shape.1

/-- The operand form of an instruction. -/
def Instr.operand (i : Instr) : Operand := i.shape.2

end Sys2Proof
end

