-- ==== Sys2Proof/WellFormed.lean ====
section
/-! DEFINITION. Which instruction terms stand for encodable instructions. Every bit of every operand byte is
significant (30_encoding.md R104), so a byte or word operand is never ill-formed; the one check is the range
of a branch's offset (R93). -/

namespace Sys2Proof

/-- The offset of a branch "is signed and has a range of [-128, 127]" (30_encoding.md R93). -/
abbrev OffsetInRange (offset : Int) : Prop := -128 ≤ offset ∧ offset ≤ 127

/-- An operand form that an encoding can carry (30_encoding.md R84 to R94, R104). -/
def Operand.wellFormed : Operand → Bool
  | .imp => true
  | .acc => true
  | .src _ => true
  | .rel offset => decide (OffsetInRange offset)
  | .ind _ => true

/-- An instruction term that stands for an encodable instruction. -/
abbrev Instr.WellFormed (i : Instr) : Prop := i.operand.wellFormed = true

end Sys2Proof
end

