-- ==== Sys2Proof/Decode.lean ====
section
/-! DEFINITION. The opcode map as a table (30_encoding.md R100), the decoder that reads it, and the encoder.
Also the byte order of 16-bit quantities (20_memory.md R52), which fetch and the address arithmetic share. -/

namespace Sys2Proof

/-- `{hi, lo}`, the word hi × 256 + lo (00_scope.md R8). -/
def wordOf (hi lo : Byte) : Word := hi ++ lo

/-- `lo8(w)`, w mod 256 (00_scope.md R8). -/
def lo8 (w : Word) : Byte := w.setWidth 8

/-- `hi8(w)`, (w div 256) mod 256 (00_scope.md R8). -/
def hi8 (w : Word) : Byte := (w >>> 8).setWidth 8

/-- `sext_8(v)`: v if v < 128, else v − 256 (00_scope.md R8). -/
def sext8 (v : Byte) : Int := v.toInt

/-- The byte that holds a signed offset, the offset mod 256 (30_encoding.md R93). -/
def offsetByte (offset : Int) : Byte := BitVec.ofInt 8 offset

/-- The three layouts of 30_encoding.md R80: how many operand bytes follow the opcode, and the instruction
they make. In F3 the word is `{b2, b1}`, low byte first (PRESUMED: general knowledge of the spec, entry 10). -/
inductive Layout where
  /-- one byte -/
  | f1 (i : Instr)
  /-- two bytes, opcode and b1 -/
  | f2 (make : Byte → Instr)
  /-- three bytes, opcode, b1 (low) and b2 (high) -/
  | f3 (make : Word → Instr)

/-- The length in bytes of an instruction of the layout (30_encoding.md R80). -/
def Layout.length : Layout → Nat
  | .f1 _ => 1
  | .f2 _ => 2
  | .f3 _ => 3

/-- One row of the opcode map: the opcode byte and the instruction it selects (30_encoding.md R80, R100). -/
structure OpcodeRow where
  opcode : Byte
  layout : Layout

/-- The rows of the opcode map with high digit 0 to 3 (30_encoding.md R100). -/
def opcodeRows03 : List OpcodeRow :=
  [ ⟨0x00, .f1 .brk⟩, ⟨0x01, .f2 .oraIndx⟩, ⟨0x05, .f2 .oraZp⟩, ⟨0x06, .f2 .aslZp⟩, ⟨0x08, .f1 .php⟩,
    ⟨0x09, .f2 .oraImm⟩, ⟨0x0A, .f1 .aslAcc⟩, ⟨0x0D, .f3 .oraAbs⟩, ⟨0x0E, .f3 .aslAbs⟩,
    ⟨0x10, .f2 (fun b => .bpl (sext8 b))⟩, ⟨0x11, .f2 .oraIndy⟩, ⟨0x15, .f2 .oraZpx⟩, ⟨0x16, .f2 .aslZpx⟩,
    ⟨0x18, .f1 .clc⟩, ⟨0x19, .f3 .oraAbsy⟩, ⟨0x1D, .f3 .oraAbsx⟩, ⟨0x1E, .f3 .aslAbsx⟩, ⟨0x20, .f3 .jsr⟩,
    ⟨0x21, .f2 .andIndx⟩, ⟨0x24, .f2 .bitZp⟩, ⟨0x25, .f2 .andZp⟩, ⟨0x26, .f2 .rolZp⟩, ⟨0x28, .f1 .plp⟩,
    ⟨0x29, .f2 .andImm⟩, ⟨0x2A, .f1 .rolAcc⟩, ⟨0x2C, .f3 .bitAbs⟩, ⟨0x2D, .f3 .andAbs⟩,
    ⟨0x2E, .f3 .rolAbs⟩, ⟨0x30, .f2 (fun b => .bmi (sext8 b))⟩, ⟨0x31, .f2 .andIndy⟩, ⟨0x35, .f2 .andZpx⟩,
    ⟨0x36, .f2 .rolZpx⟩, ⟨0x38, .f1 .sec⟩, ⟨0x39, .f3 .andAbsy⟩, ⟨0x3D, .f3 .andAbsx⟩,
    ⟨0x3E, .f3 .rolAbsx⟩ ]

/-- The rows of the opcode map with high digit 4 to 7 (30_encoding.md R100). -/
def opcodeRows47 : List OpcodeRow :=
  [ ⟨0x40, .f1 .rti⟩, ⟨0x41, .f2 .eorIndx⟩, ⟨0x45, .f2 .eorZp⟩, ⟨0x46, .f2 .lsrZp⟩, ⟨0x48, .f1 .pha⟩,
    ⟨0x49, .f2 .eorImm⟩, ⟨0x4A, .f1 .lsrAcc⟩, ⟨0x4C, .f3 .jmpAbs⟩, ⟨0x4D, .f3 .eorAbs⟩,
    ⟨0x4E, .f3 .lsrAbs⟩, ⟨0x50, .f2 (fun b => .bvc (sext8 b))⟩, ⟨0x51, .f2 .eorIndy⟩, ⟨0x55, .f2 .eorZpx⟩,
    ⟨0x56, .f2 .lsrZpx⟩, ⟨0x58, .f1 .cli⟩, ⟨0x59, .f3 .eorAbsy⟩, ⟨0x5D, .f3 .eorAbsx⟩,
    ⟨0x5E, .f3 .lsrAbsx⟩, ⟨0x60, .f1 .rts⟩, ⟨0x61, .f2 .adcIndx⟩, ⟨0x65, .f2 .adcZp⟩, ⟨0x66, .f2 .rorZp⟩,
    ⟨0x68, .f1 .pla⟩, ⟨0x69, .f2 .adcImm⟩, ⟨0x6A, .f1 .rorAcc⟩, ⟨0x6C, .f3 .jmpInd⟩, ⟨0x6D, .f3 .adcAbs⟩,
    ⟨0x6E, .f3 .rorAbs⟩, ⟨0x70, .f2 (fun b => .bvs (sext8 b))⟩, ⟨0x71, .f2 .adcIndy⟩, ⟨0x75, .f2 .adcZpx⟩,
    ⟨0x76, .f2 .rorZpx⟩, ⟨0x78, .f1 .sei⟩, ⟨0x79, .f3 .adcAbsy⟩, ⟨0x7D, .f3 .adcAbsx⟩,
    ⟨0x7E, .f3 .rorAbsx⟩ ]

/-- The rows of the opcode map with high digit 8 to B (30_encoding.md R100). -/
def opcodeRows8B : List OpcodeRow :=
  [ ⟨0x81, .f2 .staIndx⟩, ⟨0x84, .f2 .styZp⟩, ⟨0x85, .f2 .staZp⟩, ⟨0x86, .f2 .stxZp⟩, ⟨0x88, .f1 .dey⟩,
    ⟨0x8A, .f1 .txa⟩, ⟨0x8C, .f3 .styAbs⟩, ⟨0x8D, .f3 .staAbs⟩, ⟨0x8E, .f3 .stxAbs⟩,
    ⟨0x90, .f2 (fun b => .bcc (sext8 b))⟩, ⟨0x91, .f2 .staIndy⟩, ⟨0x94, .f2 .styZpx⟩, ⟨0x95, .f2 .staZpx⟩,
    ⟨0x96, .f2 .stxZpy⟩, ⟨0x98, .f1 .tya⟩, ⟨0x99, .f3 .staAbsy⟩, ⟨0x9A, .f1 .txs⟩, ⟨0x9D, .f3 .staAbsx⟩,
    ⟨0xA0, .f2 .ldyImm⟩, ⟨0xA1, .f2 .ldaIndx⟩, ⟨0xA2, .f2 .ldxImm⟩, ⟨0xA4, .f2 .ldyZp⟩, ⟨0xA5, .f2 .ldaZp⟩,
    ⟨0xA6, .f2 .ldxZp⟩, ⟨0xA8, .f1 .tay⟩, ⟨0xA9, .f2 .ldaImm⟩, ⟨0xAA, .f1 .tax⟩, ⟨0xAC, .f3 .ldyAbs⟩,
    ⟨0xAD, .f3 .ldaAbs⟩, ⟨0xAE, .f3 .ldxAbs⟩, ⟨0xB0, .f2 (fun b => .bcs (sext8 b))⟩, ⟨0xB1, .f2 .ldaIndy⟩,
    ⟨0xB4, .f2 .ldyZpx⟩, ⟨0xB5, .f2 .ldaZpx⟩, ⟨0xB6, .f2 .ldxZpy⟩, ⟨0xB8, .f1 .clv⟩, ⟨0xB9, .f3 .ldaAbsy⟩,
    ⟨0xBA, .f1 .tsx⟩, ⟨0xBC, .f3 .ldyAbsx⟩, ⟨0xBD, .f3 .ldaAbsx⟩, ⟨0xBE, .f3 .ldxAbsy⟩ ]

/-- The rows of the opcode map with high digit C to F (30_encoding.md R100). -/
def opcodeRowsCF : List OpcodeRow :=
  [ ⟨0xC0, .f2 .cpyImm⟩, ⟨0xC1, .f2 .cmpIndx⟩, ⟨0xC4, .f2 .cpyZp⟩, ⟨0xC5, .f2 .cmpZp⟩, ⟨0xC6, .f2 .decZp⟩,
    ⟨0xC8, .f1 .iny⟩, ⟨0xC9, .f2 .cmpImm⟩, ⟨0xCA, .f1 .dex⟩, ⟨0xCC, .f3 .cpyAbs⟩, ⟨0xCD, .f3 .cmpAbs⟩,
    ⟨0xCE, .f3 .decAbs⟩, ⟨0xD0, .f2 (fun b => .bne (sext8 b))⟩, ⟨0xD1, .f2 .cmpIndy⟩, ⟨0xD5, .f2 .cmpZpx⟩,
    ⟨0xD6, .f2 .decZpx⟩, ⟨0xD8, .f1 .cld⟩, ⟨0xD9, .f3 .cmpAbsy⟩, ⟨0xDD, .f3 .cmpAbsx⟩,
    ⟨0xDE, .f3 .decAbsx⟩, ⟨0xE0, .f2 .cpxImm⟩, ⟨0xE1, .f2 .sbcIndx⟩, ⟨0xE4, .f2 .cpxZp⟩,
    ⟨0xE5, .f2 .sbcZp⟩, ⟨0xE6, .f2 .incZp⟩, ⟨0xE8, .f1 .inx⟩, ⟨0xE9, .f2 .sbcImm⟩, ⟨0xEA, .f1 .nop⟩,
    ⟨0xEC, .f3 .cpxAbs⟩, ⟨0xED, .f3 .sbcAbs⟩, ⟨0xEE, .f3 .incAbs⟩, ⟨0xF0, .f2 (fun b => .beq (sext8 b))⟩,
    ⟨0xF1, .f2 .sbcIndy⟩, ⟨0xF5, .f2 .sbcZpx⟩, ⟨0xF6, .f2 .incZpx⟩, ⟨0xF8, .f1 .sed⟩, ⟨0xF9, .f3 .sbcAbsy⟩,
    ⟨0xFD, .f3 .sbcAbsx⟩, ⟨0xFE, .f3 .incAbsx⟩ ]

/-- The opcode map: the 151 official opcodes (30_encoding.md R100). -/
def opcodeRows : List OpcodeRow :=
  opcodeRows03 ++ opcodeRows47 ++ opcodeRows8B ++ opcodeRowsCF

/-- The layout the first row with this opcode gives, none where no row has it. -/
def findLayout (opcode : Byte) : List OpcodeRow → Option Layout
  | [] => none
  | r :: rest => if r.opcode = opcode then some r.layout else findLayout opcode rest

/-- The opcode alone determines the instruction and its length (30_encoding.md R80); none for the 105
undocumented values (R101). -/
def layoutOf (opcode : Byte) : Option Layout := findLayout opcode opcodeRows

/-- Why bytes decode to no instruction. -/
inductive DecodeError where
  /-- there is no byte at all -/
  | noBytes
  /-- one of the 105 opcode values without a meaning (30_encoding.md R101) -/
  | undocumented (opcode : Byte)
  /-- the opcode is official and its operand bytes are missing; the machine's own fetch never meets this -/
  | truncated (opcode : Byte)
  deriving DecidableEq, Repr

/-- Decode one instruction from the front of a list of bytes, opcode first, and give the bytes after it. -/
def decode : List Byte → Except DecodeError (Instr × List Byte)
  | [] => .error .noBytes
  | opcode :: rest =>
    match layoutOf opcode with
    | none => .error (.undocumented opcode)
    | some (.f1 i) => .ok (i, rest)
    | some (.f2 make) =>
      match rest with
      | b1 :: rest => .ok (make b1, rest)
      | [] => .error (.truncated opcode)
    | some (.f3 make) =>
      match rest with
      | b1 :: b2 :: rest => .ok (make (wordOf b2 b1), rest)
      | _ => .error (.truncated opcode)

/-- The bytes of a one-byte operand instruction (layout F2). -/
def bytes2 (opcode b : Byte) : List Byte := [opcode, b]

/-- The bytes of a two-byte operand instruction (layout F3), low operand byte first (30_encoding.md R80). -/
def bytes3 (opcode : Byte) (w : Word) : List Byte := [opcode, lo8 w, hi8 w]

/-- The bytes of an instruction, from the encoding tables of the instruction files (R120 to R227). -/
def encode : Instr → List Byte
  | .ldaImm b => bytes2 0xA9 b
  | .ldaZp b => bytes2 0xA5 b
  | .ldaZpx b => bytes2 0xB5 b
  | .ldaAbs w => bytes3 0xAD w
  | .ldaAbsx w => bytes3 0xBD w
  | .ldaAbsy w => bytes3 0xB9 w
  | .ldaIndx b => bytes2 0xA1 b
  | .ldaIndy b => bytes2 0xB1 b
  | .staZp b => bytes2 0x85 b
  | .staZpx b => bytes2 0x95 b
  | .staAbs w => bytes3 0x8D w
  | .staAbsx w => bytes3 0x9D w
  | .staAbsy w => bytes3 0x99 w
  | .staIndx b => bytes2 0x81 b
  | .staIndy b => bytes2 0x91 b
  | .ldxImm b => bytes2 0xA2 b
  | .ldxZp b => bytes2 0xA6 b
  | .ldxZpy b => bytes2 0xB6 b
  | .ldxAbs w => bytes3 0xAE w
  | .ldxAbsy w => bytes3 0xBE w
  | .stxZp b => bytes2 0x86 b
  | .stxZpy b => bytes2 0x96 b
  | .stxAbs w => bytes3 0x8E w
  | .ldyImm b => bytes2 0xA0 b
  | .ldyZp b => bytes2 0xA4 b
  | .ldyZpx b => bytes2 0xB4 b
  | .ldyAbs w => bytes3 0xAC w
  | .ldyAbsx w => bytes3 0xBC w
  | .styZp b => bytes2 0x84 b
  | .styZpx b => bytes2 0x94 b
  | .styAbs w => bytes3 0x8C w
  | .tax => [0xAA]
  | .txa => [0x8A]
  | .tay => [0xA8]
  | .tya => [0x98]
  | .adcImm b => bytes2 0x69 b
  | .adcZp b => bytes2 0x65 b
  | .adcZpx b => bytes2 0x75 b
  | .adcAbs w => bytes3 0x6D w
  | .adcAbsx w => bytes3 0x7D w
  | .adcAbsy w => bytes3 0x79 w
  | .adcIndx b => bytes2 0x61 b
  | .adcIndy b => bytes2 0x71 b
  | .sbcImm b => bytes2 0xE9 b
  | .sbcZp b => bytes2 0xE5 b
  | .sbcZpx b => bytes2 0xF5 b
  | .sbcAbs w => bytes3 0xED w
  | .sbcAbsx w => bytes3 0xFD w
  | .sbcAbsy w => bytes3 0xF9 w
  | .sbcIndx b => bytes2 0xE1 b
  | .sbcIndy b => bytes2 0xF1 b
  | .incZp b => bytes2 0xE6 b
  | .incZpx b => bytes2 0xF6 b
  | .incAbs w => bytes3 0xEE w
  | .incAbsx w => bytes3 0xFE w
  | .decZp b => bytes2 0xC6 b
  | .decZpx b => bytes2 0xD6 b
  | .decAbs w => bytes3 0xCE w
  | .decAbsx w => bytes3 0xDE w
  | .inx => [0xE8]
  | .dex => [0xCA]
  | .iny => [0xC8]
  | .dey => [0x88]
  | .aslAcc => [0x0A]
  | .aslZp b => bytes2 0x06 b
  | .aslZpx b => bytes2 0x16 b
  | .aslAbs w => bytes3 0x0E w
  | .aslAbsx w => bytes3 0x1E w
  | .lsrAcc => [0x4A]
  | .lsrZp b => bytes2 0x46 b
  | .lsrZpx b => bytes2 0x56 b
  | .lsrAbs w => bytes3 0x4E w
  | .lsrAbsx w => bytes3 0x5E w
  | .rolAcc => [0x2A]
  | .rolZp b => bytes2 0x26 b
  | .rolZpx b => bytes2 0x36 b
  | .rolAbs w => bytes3 0x2E w
  | .rolAbsx w => bytes3 0x3E w
  | .rorAcc => [0x6A]
  | .rorZp b => bytes2 0x66 b
  | .rorZpx b => bytes2 0x76 b
  | .rorAbs w => bytes3 0x6E w
  | .rorAbsx w => bytes3 0x7E w
  | .andImm b => bytes2 0x29 b
  | .andZp b => bytes2 0x25 b
  | .andZpx b => bytes2 0x35 b
  | .andAbs w => bytes3 0x2D w
  | .andAbsx w => bytes3 0x3D w
  | .andAbsy w => bytes3 0x39 w
  | .andIndx b => bytes2 0x21 b
  | .andIndy b => bytes2 0x31 b
  | .oraImm b => bytes2 0x09 b
  | .oraZp b => bytes2 0x05 b
  | .oraZpx b => bytes2 0x15 b
  | .oraAbs w => bytes3 0x0D w
  | .oraAbsx w => bytes3 0x1D w
  | .oraAbsy w => bytes3 0x19 w
  | .oraIndx b => bytes2 0x01 b
  | .oraIndy b => bytes2 0x11 b
  | .eorImm b => bytes2 0x49 b
  | .eorZp b => bytes2 0x45 b
  | .eorZpx b => bytes2 0x55 b
  | .eorAbs w => bytes3 0x4D w
  | .eorAbsx w => bytes3 0x5D w
  | .eorAbsy w => bytes3 0x59 w
  | .eorIndx b => bytes2 0x41 b
  | .eorIndy b => bytes2 0x51 b
  | .bitZp b => bytes2 0x24 b
  | .bitAbs w => bytes3 0x2C w
  | .cmpImm b => bytes2 0xC9 b
  | .cmpZp b => bytes2 0xC5 b
  | .cmpZpx b => bytes2 0xD5 b
  | .cmpAbs w => bytes3 0xCD w
  | .cmpAbsx w => bytes3 0xDD w
  | .cmpAbsy w => bytes3 0xD9 w
  | .cmpIndx b => bytes2 0xC1 b
  | .cmpIndy b => bytes2 0xD1 b
  | .cpxImm b => bytes2 0xE0 b
  | .cpxZp b => bytes2 0xE4 b
  | .cpxAbs w => bytes3 0xEC w
  | .cpyImm b => bytes2 0xC0 b
  | .cpyZp b => bytes2 0xC4 b
  | .cpyAbs w => bytes3 0xCC w
  | .bcc offset => bytes2 0x90 (offsetByte offset)
  | .bcs offset => bytes2 0xB0 (offsetByte offset)
  | .beq offset => bytes2 0xF0 (offsetByte offset)
  | .bne offset => bytes2 0xD0 (offsetByte offset)
  | .bpl offset => bytes2 0x10 (offsetByte offset)
  | .bmi offset => bytes2 0x30 (offsetByte offset)
  | .bvc offset => bytes2 0x50 (offsetByte offset)
  | .bvs offset => bytes2 0x70 (offsetByte offset)
  | .jmpAbs w => bytes3 0x4C w
  | .jmpInd p => bytes3 0x6C p
  | .jsr w => bytes3 0x20 w
  | .rts => [0x60]
  | .brk => [0x00]
  | .rti => [0x40]
  | .pha => [0x48]
  | .pla => [0x68]
  | .php => [0x08]
  | .plp => [0x28]
  | .txs => [0x9A]
  | .tsx => [0xBA]
  | .clc => [0x18]
  | .sec => [0x38]
  | .cli => [0x58]
  | .sei => [0x78]
  | .cld => [0xD8]
  | .sed => [0xF8]
  | .clv => [0xB8]
  | .nop => [0xEA]

/-- The length of an instruction in bytes: the Bytes column (30_encoding.md R80). -/
def Instr.length (i : Instr) : Nat := (encode i).length

/-- The first three bytes of an instruction numbered as spec/opcode_table.json numbers bits: bit 0 is the
least significant bit of the first byte, and every bit from `nbits` up is 0. -/
def tableBytes (nbits w : Nat) : List Byte :=
  let w := w % 2 ^ nbits
  [BitVec.ofNat 8 w, BitVec.ofNat 8 (w / 256), BitVec.ofNat 8 (w / 65536)]

/-- The instruction the decoder reads from an instruction whose bits are `w`. -/
def decodeTableWord (nbits w : Nat) : Option Instr :=
  match decode (tableBytes nbits w) with
  | .ok (i, _) => some i
  | .error _ => none

end Sys2Proof
end

