-- ==== Sys2Proof/Config.lean ====
section
/-! DEFINITION. The implementation parameters of 00_scope.md R6, the inputs the environment gives the steps
(60_exceptions.md R243, 70_reset_and_hazards.md R280), and the two free values of the model: the input of a step,
and the byte of a device read, where State lists none. -/

namespace Sys2Proof

/-- The kinds of 20_memory.md R58 an address can have. -/
inductive RegionKind where
  /-- readable and writable memory -/
  | ram
  /-- readable, writes change nothing -/
  | rom
  /-- a hardware register: reads return environment bytes, reads and writes are events -/
  | device
  /-- nothing answers; the model refuses the access -/
  | unmapped
  deriving DecidableEq, Repr

/-- A range of addresses, both ends included, and the kind of all of them. -/
structure Region where
  first : Word
  last  : Word
  kind  : RegionKind
  deriving DecidableEq, Repr

/-- The parameters of 00_scope.md R6 that are the platform's; the defaults are the table's.
MemMap is a list of ranges, the first range that holds an address gives its kind, and an address in
none is `ram`, so that the empty list is the default map. MODEL (DESIGN CHOICE, entries 3 and 31; safe):
the parameters are a field of State that no step changes, so every statement over all states is over all
values of them. -/
structure Platform where
  bcdEnabled  : Bool := false
  soPin       : Bool := false
  /-- PRESUMED (entry 11): general knowledge of the spec, `$FFFA`. -/
  nmiVector   : Word := 0xFFFA
  /-- PRESUMED (entry 11): general knowledge of the spec, `$FFFC`. -/
  resetVector : Word := 0xFFFC
  regions     : List Region := []
  deriving DecidableEq, Repr

/-- IRQ_VECTOR, fixed by the source: "PC = ($FFFE)" (00_scope.md R6, 60_exceptions.md R251). -/
def Config.irqVector : Word := 0xFFFE

/-- The input record of one step (60_exceptions.md R243). -/
structure Env where
  /-- the IRQ input is asserted when this step's instruction polls it -/
  irq : Bool := false
  /-- an NMI request arrived during this step -/
  nmiEdge : Bool := false
  /-- read only in a BRK step with `nmiEdge`: the NMI takes over the BRK -/
  nmiHijacksBrk : Bool := false
  /-- read only if SO_PIN: the overflow pin fired since the last step -/
  so : Bool := false
  deriving DecidableEq, Repr, Inhabited

/-- The draws of one reset: the values the registers and flags of 10_state.md R40 marked "any value" get. -/
structure ResetDraw where
  a  : Byte
  x  : Byte
  y  : Byte
  sp : Byte
  c  : Bool
  z  : Bool
  d  : Bool
  v  : Bool
  n  : Bool
  deriving DecidableEq, Repr, Inhabited

/-- What the environment gives the machine at one step boundary: the inputs of a step, or reset, which "may
arrive in any state, at any step boundary" (70_reset_and_hazards.md R280). -/
inductive Input where
  | env (e : Env)
  | reset (d : ResetDraw)
  deriving DecidableEq, Repr, Inhabited

/-- FREE VALUE (entry 1; safe): the input of the n-th step where State lists none. 60_exceptions.md R243 quantifies
over every input at every step and assumes "no fairness or protocol" of the environment; nothing can be proved of
this one, and a reset is among the inputs it can be. -/
opaque Config.laterInput : Nat → Input

/-- FREE VALUE (entry 2; safe): the byte the n-th device read returns when the environment's list of
supplied bytes is empty. 20_memory.md R54 says a device read returns a byte supplied by the environment;
nothing can be proved of this one. -/
opaque Config.deviceByte : Nat → Byte

end Sys2Proof
end

