-- ==== Sys2Proof/Machine/State.lean ====
section
/-! DEFINITION. The state of the machine as plain data (10_state.md R20 to R40), the reasons a step can stop, the
named updates of a state, and the state after reset. -/

namespace Sys2Proof.Machine

/-- The hardware "raises none": no instruction faults (60_exceptions.md R244), and a step has one of two
outcomes, a next state or a refusal (00_scope.md R13). So there is no fault. -/
inductive Fault : Type
  deriving DecidableEq, Repr

/-- Why the model gives a step no meaning: the closed list of 00_scope.md R13, and one of the host's.
A refusal is a statement about the model, not the chip, and is safe: nothing can be concluded from it. -/
inductive Refusal where
  /-- Raised by no arm of `exec`: an instruction without a meaning would be refused so. Safe. -/
  | notModelled (mnemonic : String)
  /-- Raised by fetch on one of the 105 opcode values without a meaning (30_encoding.md R101). Safe. -/
  | undocumentedOpcode (opcode : Byte) (pc0 : Word)
  /-- Raised by ADC and SBC with BCD_ENABLED true and D = 1 (42_arithmetic.md R142). Safe. -/
  | decimalArithmetic (pc0 : Word)
  /-- Raised by an access to an `unmapped` address (20_memory.md R54, R55), and by a form one of whose extra
  bus reads falls on a `device` address (R60, 92_eei_decisions.md D8). Safe. -/
  | platformAccess (addr : Word)
  deriving DecidableEq, Repr

/-- The six status flags, separate bits of state (10_state.md R26). There is no B flag and no extra bit
(R34). -/
structure Flags where
  n : Bool
  v : Bool
  d : Bool
  i : Bool
  z : Bool
  c : Bool
  deriving DecidableEq, Repr

/-- The two hardware interrupts (60_exceptions.md R247). -/
inductive Interrupt where
  | irq
  | nmi
  deriving DecidableEq, Repr

/-- One entry of the event history: a MemRead or a MemWrite with its address and the byte moved
(92_eei_decisions.md D23). -/
inductive Event where
  | read (addr : Word) (v : Byte)
  | write (addr : Word) (v : Byte)
  deriving DecidableEq, Repr

/-- Memory: the listed cells, addresses strictly rising, none listed with the byte an unlisted address reads
as (Machine/Memory.lean). -/
abbrev Memory := List Host.Cell

/-- The state of the machine. The fields from `inputs` on are the model's own (INVENTORY.md, State). -/
structure State where
  /-- the accumulator (10_state.md R20) -/
  a : Byte
  /-- the index register X (R21) -/
  x : Byte
  /-- the index register Y (R22) -/
  y : Byte
  /-- the stack pointer (R23) -/
  sp : Byte
  /-- the program counter: between steps, the address of the next opcode (R24) -/
  pc : Word
  /-- the six flags (R26) -/
  flags : Flags
  /-- memory (20_memory.md R50) -/
  mem : Memory
  /-- an NMI has been signalled and not yet serviced (R36) -/
  nmiPending : Bool
  /-- what the last interrupt poll decided (R37) -/
  intLatch : Option Interrupt
  /-- the parameters of 00_scope.md R6; no step changes them (entry 3) -/
  platform : Platform
  /-- the inputs of the coming steps, the next step's first; a step takes one (entry 1) -/
  inputs : List Input
  /-- how many steps have been taken: the argument of the free input of a step past the list (entry 1) -/
  steps : Nat
  /-- the bytes the environment supplies to the coming device reads, in order (entry 2) -/
  deviceIn : List Byte
  /-- how many device reads have happened: the argument of the free value (entry 2) -/
  deviceReads : Nat
  /-- the event history, newest first (20_memory.md R54, R55, R60; entry 8) -/
  trace : List Event
  /-- the ghost cycle counter (70_reset_and_hazards.md R293; entry 9) -/
  cycles : Nat
  deriving DecidableEq, Repr

def State.setA (s : State) (v : Byte) : State := { s with a := v }
def State.setX (s : State) (v : Byte) : State := { s with x := v }
def State.setY (s : State) (v : Byte) : State := { s with y := v }
def State.setSp (s : State) (v : Byte) : State := { s with sp := v }
def State.setPc (s : State) (v : Word) : State := { s with pc := v }
def State.setFlags (s : State) (f : Flags) : State := { s with flags := f }
def State.setMem (s : State) (m : Memory) : State := { s with mem := m }
def State.setNmiPending (s : State) (b : Bool) : State := { s with nmiPending := b }
def State.setIntLatch (s : State) (l : Option Interrupt) : State := { s with intLatch := l }
def State.setPlatform (s : State) (p : Platform) : State := { s with platform := p }
def State.setInputs (s : State) (l : List Input) : State := { s with inputs := l }
/-- Count a step. -/
def State.countStep (s : State) : State := { s with steps := s.steps + 1 }
def State.setDeviceIn (s : State) (l : List Byte) : State := { s with deviceIn := l }
def State.setDeviceReads (s : State) (n : Nat) : State := { s with deviceReads := n }
/-- Add an event to the history (92_eei_decisions.md D23). -/
def State.record (s : State) (e : Event) : State := { s with trace := e :: s.trace }
/-- Count clock cycles on the ghost counter (70_reset_and_hazards.md R293). -/
def State.tick (s : State) (n : Nat) : State := { s with cycles := s.cycles + n }

/-- The machine right after reset (10_state.md R40, 70_reset_and_hazards.md R280): I = 1, no NMI pending,
nothing latched, PC the word at RESET_VECTOR, which is `$0000` while memory lists nothing. These values are the
spec's decisions D5 and D6 (the vector PRESUMED, entry 11).
DESIGN CHOICE (entries 4 and 5; unsafe): A, X, Y, SP, C, Z, D, V, N and the bytes of memory are "any value" in
the spec; here they are the harness defaults of R288. The model's own fields are empty and the parameters
have the defaults of 00_scope.md R6. -/
def State.reset : State where
  a := 0x00
  x := 0x00
  y := 0x00
  sp := 0xFF
  pc := 0x0000
  flags := { n := false, v := false, d := false, i := true, z := false, c := false }
  mem := []
  nmiPending := false
  intLatch := none
  platform := {}
  inputs := []
  steps := 0
  deviceIn := []
  deviceReads := 0
  trace := []
  cycles := 0

end Sys2Proof.Machine
end

