-- ==== Sys2Proof/Machine/Flags.lean ====
section
/-! DEFINITION. Every flag computation of the instruction rules, and the flags byte of the stack
(10_state.md R30, 00_scope.md R12). All are functions of bytes and flags alone. -/

namespace Sys2Proof.Machine

/-- `v[7]`, the sign bit (00_scope.md R7). -/
def bit7 (v : Byte) : Bool := v.getLsbD 7

/-- `v[6]`. -/
def bit6 (v : Byte) : Bool := v.getLsbD 6

/-- `v[0]`. -/
def bit0 (v : Byte) : Bool := v.getLsbD 0

/-- A flag as the number 0 or 1. -/
def bitNat (b : Bool) : Nat := if b then 1 else 0

/-- `SetNZ(v)`: Z is `v == 0`, N is `v[7]` (00_scope.md R12). -/
def Flags.setNZ (f : Flags) (v : Byte) : Flags := { f with z := decide (v = 0), n := bit7 v }

/-- `PackP(b)`: NV1BDIZC, high to low, with B = b and the extra bit 1 (00_scope.md R12, 10_state.md R30). -/
def packP (b : Bool) (f : Flags) : Byte :=
  BitVec.ofNat 8 (bitNat f.n * 128 + bitNat f.v * 64 + 32 + bitNat b * 16 + bitNat f.d * 8
    + bitNat f.i * 4 + bitNat f.z * 2 + bitNat f.c)

/-- `UnpackP(v)`: NVxxDIZC; bits 5 and 4 are ignored (00_scope.md R12, 10_state.md R30). -/
def unpackP (v : Byte) : Flags where
  n := v.getLsbD 7
  v := v.getLsbD 6
  d := v.getLsbD 3
  i := v.getLsbD 2
  z := v.getLsbD 1
  c := v.getLsbD 0

/-- `r`, the unbounded sum A + M + C (42_arithmetic.md R140). -/
def adcSum (a m : Byte) (c : Bool) : Nat := a.toNat + m.toNat + bitNat c

/-- `r8 = r mod 256` (42_arithmetic.md R140). -/
def adcResult (a m : Byte) (c : Bool) : Byte := BitVec.ofNat 8 (adcSum a m c)

/-- The source's overflow formula `(result ^ A) & (result ^ memory) & $80` as a truth value (R140). -/
def adcOverflow (a m r8 : Byte) : Bool := decide ((r8 ^^^ a) &&& (r8 ^^^ m) &&& 0x80 ≠ 0)

/-- The flags after the binary ADC: C the carry out of bit 7, V signed overflow, Z and N from `r8`
(42_arithmetic.md R140). -/
def adcFlags (f : Flags) (a m : Byte) : Flags :=
  let r8 := adcResult a m f.c
  { f with c := decide (adcSum a m f.c > 0xFF), v := adcOverflow a m r8 }.setNZ r8

/-- `M ^ $FF`, the operand SBC adds (42_arithmetic.md R141). -/
def sbcOperand (m : Byte) : Byte := m ^^^ 0xFF

/-- The flags after a compare of register `r` with `m`: C is `r >= m` unsigned, Z is `r == m`, N is bit 7 of
the 8-bit difference (45_compare.md R175). -/
def compareFlags (f : Flags) (r m : Byte) : Flags :=
  { f with c := decide (m.toNat ≤ r.toNat), z := decide (r = m), n := bit7 (r - m) }

/-- The flags after BIT: Z from `A & M`, V and N from bits 6 and 7 of `M` (44_bitwise.md R168). -/
def bitTestFlags (f : Flags) (a m : Byte) : Flags :=
  { f with z := decide (a &&& m = 0), v := bit6 m, n := bit7 m }

/-- A byte operation that also writes flags: a shift, a rotate, an increment or a decrement. -/
abbrev ByteOp := Byte → Flags → Byte × Flags

/-- ASL: `C <- v[7]`, `r8 <- v << 1` (43_shift.md R156). -/
def aslByte : ByteOp := fun v f =>
  let r8 := v <<< 1
  (r8, { f with c := bit7 v }.setNZ r8)

/-- LSR: `C <- v[0]`, `r8 <- v >> 1`, so N is 0 (43_shift.md R157). -/
def lsrByte : ByteOp := fun v f =>
  let r8 := v >>> 1
  (r8, { f with c := bit0 v }.setNZ r8)

/-- ROL: the old C becomes bit 0, bit 7 becomes C (43_shift.md R158). -/
def rolByte : ByteOp := fun v f =>
  let r8 := v <<< 1 ||| BitVec.ofNat 8 (bitNat f.c)
  (r8, { f with c := bit7 v }.setNZ r8)

/-- ROR: the old C becomes bit 7, bit 0 becomes C (43_shift.md R159). -/
def rorByte : ByteOp := fun v f =>
  let r8 := v >>> 1 ||| BitVec.ofNat 8 (bitNat f.c) <<< 7
  (r8, { f with c := bit0 v }.setNZ r8)

/-- Add 1 mod 256, Z and N from the result, C and V untouched (42_arithmetic.md R143, R145, R147). -/
def incByte : ByteOp := fun v f => (v + 1, f.setNZ (v + 1))

/-- Subtract 1 mod 256, Z and N from the result, C and V untouched (42_arithmetic.md R144, R146, R148). -/
def decByte : ByteOp := fun v f => (v - 1, f.setNZ (v - 1))

end Sys2Proof.Machine
end

