-- ==== Sys2Proof/Machine/Memory.lean ====
section
/-! DEFINITION. The cells of memory (20_memory.md R50): what an unlisted cell holds, reading and writing one
cell, and the canonical form of the list. -/

namespace Sys2Proof.Machine

/-- What a cell no entry lists holds. DESIGN CHOICE (entry 5; unsafe): the spec gives RAM at power-on any
value (70_reset_and_hazards.md R281); its harness starts from `$00` (R288). -/
def unlistedByte : Byte := 0x00

/-- The byte the cell at `addr` holds. -/
def Memory.read : Memory → Nat → Byte
  | [], _ => unlistedByte
  | (k, v) :: rest, addr => if k = addr then v else Memory.read rest addr

/-- The cell list with `v` put at the front, unless an unlisted cell holds it anyway. -/
def consCell (addr : Nat) (v : Byte) (rest : Memory) : Memory :=
  if v = unlistedByte then rest else (addr, v) :: rest

/-- The cell at `addr` holds `v` afterwards and no other cell changes. -/
def Memory.write : Memory → Nat → Byte → Memory
  | [], addr, v => consCell addr v []
  | (k, w) :: rest, addr, v =>
    if addr < k then consCell addr v ((k, w) :: rest)
    else if addr = k then consCell addr v rest
    else (k, w) :: Memory.write rest addr v

/-- The canonical form above a bound: addresses rise strictly from at least `lo`, stay below 65536
(20_memory.md R50), and no entry lists what an unlisted cell holds. -/
def Memory.wfFrom : Nat → Memory → Bool
  | _, [] => true
  | lo, (k, v) :: rest =>
    decide (lo ≤ k) && decide (k < 65536) && decide (v ≠ unlistedByte) && Memory.wfFrom (k + 1) rest

/-- The canonical form: equal memories are equal lists. -/
def Memory.wf (m : Memory) : Bool := Memory.wfFrom 0 m

end Sys2Proof.Machine
end

