-- ==== Sys2Proof/Machine/Ops.lean ====
section
/-! DEFINITION. The named operations every instruction is made of: MemRead and MemWrite by the kind of the
address (20_memory.md R54, R55), the chip's extra reads (R60, D8), 16-bit reads, the stack (00_scope.md R12),
taking an interrupt and returning from one, and the ends of a step. -/

namespace Sys2Proof.Machine

/-- What an operation gives: a value, or the reason the model gives the step no meaning (00_scope.md R13). -/
abbrev Access (α : Type) := Except Refusal α

/-- What a meaning gives: a next state or a refusal, and never a fault, since `Fault` is empty. -/
abbrev StepResult := Host.Outcome State Fault Refusal

/-- The outcome of a step whose operations gave this. -/
def toOutcome : Access State → StepResult
  | .ok s => .next s
  | .error r => .refused r

/-- The kind of the first range that holds the address; `ram` where none does. -/
def kindIn (addr : Word) : List Region → RegionKind
  | [] => .ram
  | r :: rest => if r.first ≤ addr ∧ addr ≤ r.last then r.kind else kindIn addr rest

/-- `MemMap(addr)` (20_memory.md R58). -/
def kindAt (p : Platform) (addr : Word) : RegionKind := kindIn addr p.regions

/-- The byte the environment supplies to a device read (20_memory.md R54): the next one it has listed, and
past the end of its list the free value (entry 2). -/
def deviceByte (s : State) : Byte :=
  match s.deviceIn with
  | b :: _ => b
  | [] => Config.deviceByte s.deviceReads

/-- The state after a device read has taken its byte. -/
def afterDeviceRead (s : State) : State :=
  (s.setDeviceIn s.deviceIn.tail).setDeviceReads (s.deviceReads + 1)

/-- `MemRead(addr, 1)` (20_memory.md R54), recorded in the event history. -/
def memRead (addr : Word) (s : State) : Access (Byte × State) :=
  match kindAt s.platform addr with
  | .ram => .ok (s.mem.read addr.toNat, s.record (.read addr (s.mem.read addr.toNat)))
  | .rom => .ok (s.mem.read addr.toNat, s.record (.read addr (s.mem.read addr.toNat)))
  | .device => .ok (deviceByte s, (afterDeviceRead s).record (.read addr (deviceByte s)))
  | .unmapped => .error (.platformAccess addr)

/-- `MemWrite(addr, 1, v)` (20_memory.md R55), recorded in the event history; on `rom` no cell changes. DESIGN
CHOICE (entry 25): on `device`, where R55 leaves the effect to the platform, no cell changes either. -/
def memWrite (addr : Word) (v : Byte) (s : State) : Access State :=
  match kindAt s.platform addr with
  | .ram => .ok ((s.setMem (s.mem.write addr.toNat v)).record (.write addr v))
  | .rom => .ok (s.record (.write addr v))
  | .device => .ok (s.record (.write addr v))
  | .unmapped => .error (.platformAccess addr)

/-- A bus read the chip makes and discards (93_implementation_defined.md U9): not performed; on a `device`
address the instruction is refused (20_memory.md R60, 92_eei_decisions.md D8; entry 24). -/
def extraRead (addr : Word) (s : State) : Access Unit :=
  if kindAt s.platform addr = .device then .error (.platformAccess addr) else .ok ()

/-- Two byte reads, low byte first, of a word whose bytes lie at the two addresses. -/
def readPair (addrLo addrHi : Word) (s : State) : Access (Word × State) := do
  let (lo, s) ← memRead addrLo s
  let (hi, s) ← memRead addrHi s
  pure (wordOf hi lo, s)

/-- `Read16(addr)`: the second byte is at addr + 1 mod 65536 (00_scope.md R12). -/
def read16 (addr : Word) (s : State) : Access (Word × State) := readPair addr (addr + 1) s

/-- `$0100 + SP` (10_state.md R23). -/
def stackAddr (sp : Byte) : Word := 0x0100 + sp.setWidth 16

/-- `Push(v)` (00_scope.md R12): write at `$0100 + SP`, then SP − 1 mod 256. -/
def push (v : Byte) (s : State) : Access State := do
  let s ← memWrite (stackAddr s.sp) v s
  pure (s.setSp (s.sp - 1))

/-- `Pull()` (00_scope.md R12): SP + 1 mod 256, then read at `$0100 + SP`. -/
def pull (s : State) : Access (Byte × State) :=
  memRead (stackAddr (s.sp + 1)) (s.setSp (s.sp + 1))

/-- Push a word, high byte first, so that the low byte lies at the lower address (20_memory.md R52). -/
def pushWord (w : Word) (s : State) : Access State := do
  let s ← push (hi8 w) s
  push (lo8 w) s

/-- Pull a word, low byte first (47_jump.md R198). -/
def pullWord (s : State) : Access (Word × State) := do
  let (lo, s) ← pull s
  let (hi, s) ← pull s
  pure (wordOf hi lo, s)

/-- The flags with I = 1. -/
def Flags.disableIrq (f : Flags) : Flags := { f with i := true }

/-- TAKING AN INTERRUPT, shared by BRK, IRQ and NMI (47_jump.md R199, 60_exceptions.md R250): push the return
address, push the flags byte with the given B bit and the flags as they are before I changes, set I, and go to
the address the vector holds. No other flag changes. -/
def takeInterrupt (ret : Word) (b : Bool) (vector : Word) (s : State) : Access State := do
  let s ← pushWord ret s
  let s ← push (packP b s.flags) s
  let (target, s) ← read16 vector (s.setFlags s.flags.disableIrq)
  pure (s.setPc target)

/-- RETURNING FROM AN INTERRUPT (47_jump.md R200): pull the six flags, then the PC, with no increment. -/
def returnFromInterrupt (s : State) : Access State := do
  let (p, s) ← pull s
  let (target, s) ← pullWord (s.setFlags (unpackP p))
  pure (s.setPc target)

/-- `PC <- (pc0 + n) mod 65536` (10_state.md R25). -/
def advance (n : Nat) (s : State) : State := s.setPc (s.pc + BitVec.ofNat 16 n)

/-- `SetNZ(v)` on the flags of a state. -/
def setNZ (v : Byte) (s : State) : State := s.setFlags (s.flags.setNZ v)

end Sys2Proof.Machine
end

