-- ==== Sys2Proof/Machine/Operands.lean ====
section
/-! DEFINITION. Every operand form: the effective address of the eight memory modes (30_encoding.md R85 to R92)
with the chip's extra reads of 93_implementation_defined.md U9, the three access kinds (R95), the shared shapes
of instructions over them, and the cycle counts of 70_reset_and_hazards.md R295.
PRESUMED (entry 10): what the modes compute is general knowledge of the spec (92_eei_decisions.md D4). -/

namespace Sys2Proof.Machine

/-- How an instruction uses its effective address (30_encoding.md R95). -/
inductive AccessKind where
  | read
  | write
  | rmw
  deriving DecidableEq, Repr

/-- An address of page 0 (30_encoding.md R85). -/
def zeroPage (b : Byte) : Word := b.setWidth 16

/-- The two-byte pointer at `p` in page 0; its second byte is at (p + 1) mod 256 (30_encoding.md R90, R91). -/
def readPointer (p : Byte) (s : State) : Access (Word × State) :=
  readPair (zeroPage p) (zeroPage (p + 1)) s

/-- An effective address, whether a page was crossed on the way to it, and the state after the pointer reads. -/
structure Effective where
  addr : Word
  crossed : Bool
  state : State

/-- "Page crossed": the two addresses differ in their high byte (70_reset_and_hazards.md R294). -/
def pageCrossed (base target : Word) : Bool := decide (hi8 target ≠ hi8 base)

/-- base + index mod 65536 (30_encoding.md R88, R89, R91). The chip reads the address without the carry into
the high byte: always before a write or a read-modify-write, on a page crossing before a read (U9). -/
def indexed (kind : AccessKind) (base : Word) (index : Byte) (s : State) : Access Effective := do
  let addr := base + index.setWidth 16
  let crossed := pageCrossed base addr
  if kind ≠ .read ∨ crossed then extraRead (wordOf (hi8 base) (lo8 addr)) s
  pure { addr := addr, crossed := crossed, state := s }

/-- The effective address of a memory mode (30_encoding.md R85 to R92). -/
def effective (kind : AccessKind) (m : MemMode) (s : State) : Access Effective := do
  match m with
  | .zp b => pure { addr := zeroPage b, crossed := false, state := s }
  | .zpx b =>
    extraRead (zeroPage b) s
    pure { addr := zeroPage (b + s.x), crossed := false, state := s }
  | .zpy b =>
    extraRead (zeroPage b) s
    pure { addr := zeroPage (b + s.y), crossed := false, state := s }
  | .abs w => pure { addr := w, crossed := false, state := s }
  | .absx w => indexed kind w s.x s
  | .absy w => indexed kind w s.y s
  | .indx b =>
    extraRead (zeroPage b) s
    let (addr, s) ← readPointer (b + s.x) s
    pure { addr := addr, crossed := false, state := s }
  | .indy b =>
    let (base, s) ← readPointer b s
    indexed kind base s.y s

/-- The length in bytes of an instruction with a memory mode (30_encoding.md R80, R81). -/
def memLength : MemMode → Nat
  | .zp _ => 2
  | .zpx _ => 2
  | .zpy _ => 2
  | .abs _ => 3
  | .absx _ => 3
  | .absy _ => 3
  | .indx _ => 2
  | .indy _ => 2

/-- The length in bytes of an instruction of the read kind (30_encoding.md R80, R81). -/
def sourceLength : Source → Nat
  | .imm _ => 2
  | .mem m => memLength m

/-- Cycles of the write kind (70_reset_and_hazards.md R295, column write). -/
def writeCycles : MemMode → Nat
  | .zp _ => 3
  | .zpx _ => 4
  | .zpy _ => 4
  | .abs _ => 4
  | .absx _ => 5
  | .absy _ => 5
  | .indx _ => 6
  | .indy _ => 6

/-- Cycles of the read kind, one more if a page is crossed in the modes that say so (R295, column read). -/
def readCycles (crossed : Bool) : MemMode → Nat
  | .zp _ => 3
  | .zpx _ => 4
  | .zpy _ => 4
  | .abs _ => 4
  | .absx _ => 4 + bitNat crossed
  | .absy _ => 4 + bitNat crossed
  | .indx _ => 6
  | .indy _ => 5 + bitNat crossed

/-- Cycles of the read-modify-write kind: two more than a write in the four modes that exist (R295, column
read-modify-write; entry 9). -/
def rmwCycles (m : MemMode) : Nat := writeCycles m + 2

/-- The operand byte `M` of an instruction of the read kind (30_encoding.md R84, R95), with the instruction's
cycles counted. -/
def readSource (src : Source) (s : State) : Access (Byte × State) := do
  match src with
  | .imm b => pure (b, s.tick 2)
  | .mem m =>
    let e ← effective .read m s
    let (v, s) ← memRead e.addr e.state
    pure (v, s.tick (readCycles e.crossed m))

/-- An instruction of the read kind: get `M`, do `f` with it, go to the next instruction. -/
def withSource (src : Source) (f : Byte → State → State) (s : State) : Access State := do
  let (m, s) ← readSource src s
  pure (advance (sourceLength src) (f m s))

/-- An instruction of the write kind: write `v` at the effective address, which is not read (40_access.md
R123 to R125). -/
def storeByte (m : MemMode) (v : Byte) (s : State) : Access State := do
  let e ← effective .write m s
  let s ← memWrite e.addr v e.state
  pure (advance (memLength m) (s.tick (writeCycles m)))

/-- A read-modify-write instruction: read the byte, write it back unchanged, then write the modified byte, all
at the effective address (43_shift.md R155). -/
def modifyMem (m : MemMode) (f : ByteOp) (s : State) : Access State := do
  let e ← effective .rmw m s
  let (v, s) ← memRead e.addr e.state
  let s ← memWrite e.addr v s
  let s ← memWrite e.addr (f v s.flags).1 s
  pure (advance (memLength m) ((s.setFlags (f v s.flags).2).tick (rmwCycles m)))

/-- A one-byte instruction that makes no access but its opcode fetch: do `f`, go to the next instruction, two
cycles (R295). The chip reads the byte after the opcode and discards it (U9). -/
def implied (f : State → State) (s : State) : Access State := do
  extraRead (s.pc + 1) s
  pure (advance 1 ((f s).tick 2))

/-- Accumulator mode: the operand is A and the result goes to A (30_encoding.md R83, 43_shift.md R155). -/
def modifyA (f : ByteOp) (s : State) : Access State :=
  implied (fun s => (s.setA (f s.a s.flags).1).setFlags (f s.a s.flags).2) s

end Sys2Proof.Machine
end

