-- ==== Sys2Proof/Machine/Access.lean ====
section
/-! DEFINITION. The Access instructions LDA, STA, LDX, STX, LDY, STY (40_access.md). -/

namespace Sys2Proof.Machine

/-- `A <- M; SetNZ(M)` (R120). -/
def loadA (src : Source) : State → Access State := withSource src fun m s => setNZ m (s.setA m)

/-- `X <- M; SetNZ(M)` (R121). -/
def loadX (src : Source) : State → Access State := withSource src fun m s => setNZ m (s.setX m)

/-- `Y <- M; SetNZ(M)` (R122). -/
def loadY (src : Source) : State → Access State := withSource src fun m s => setNZ m (s.setY m)

/-- `MemWrite(EA, 1, A)`, no flag (R123). -/
def storeA (m : MemMode) (s : State) : Access State := storeByte m s.a s

/-- `MemWrite(EA, 1, X)`, no flag (R124). -/
def storeX (m : MemMode) (s : State) : Access State := storeByte m s.x s

/-- `MemWrite(EA, 1, Y)`, no flag (R125). -/
def storeY (m : MemMode) (s : State) : Access State := storeByte m s.y s

/-- LDA #Immediate, opcode $A9 (R120). -/
def execLdaImm (b : Byte) (s : State) : StepResult := toOutcome (loadA (.imm b) s)

/-- LDA Zero Page, opcode $A5 (R120). -/
def execLdaZp (b : Byte) (s : State) : StepResult := toOutcome (loadA (.mem (.zp b)) s)

/-- LDA Zero Page,X, opcode $B5 (R120). -/
def execLdaZpx (b : Byte) (s : State) : StepResult := toOutcome (loadA (.mem (.zpx b)) s)

/-- LDA Absolute, opcode $AD (R120). -/
def execLdaAbs (w : Word) (s : State) : StepResult := toOutcome (loadA (.mem (.abs w)) s)

/-- LDA Absolute,X, opcode $BD (R120). -/
def execLdaAbsx (w : Word) (s : State) : StepResult := toOutcome (loadA (.mem (.absx w)) s)

/-- LDA Absolute,Y, opcode $B9 (R120). -/
def execLdaAbsy (w : Word) (s : State) : StepResult := toOutcome (loadA (.mem (.absy w)) s)

/-- LDA (Indirect,X), opcode $A1 (R120). -/
def execLdaIndx (b : Byte) (s : State) : StepResult := toOutcome (loadA (.mem (.indx b)) s)

/-- LDA (Indirect),Y, opcode $B1 (R120). -/
def execLdaIndy (b : Byte) (s : State) : StepResult := toOutcome (loadA (.mem (.indy b)) s)

/-- LDX #Immediate, opcode $A2 (R121). -/
def execLdxImm (b : Byte) (s : State) : StepResult := toOutcome (loadX (.imm b) s)

/-- LDX Zero Page, opcode $A6 (R121). -/
def execLdxZp (b : Byte) (s : State) : StepResult := toOutcome (loadX (.mem (.zp b)) s)

/-- LDX Zero Page,Y, opcode $B6 (R121). -/
def execLdxZpy (b : Byte) (s : State) : StepResult := toOutcome (loadX (.mem (.zpy b)) s)

/-- LDX Absolute, opcode $AE (R121). -/
def execLdxAbs (w : Word) (s : State) : StepResult := toOutcome (loadX (.mem (.abs w)) s)

/-- LDX Absolute,Y, opcode $BE (R121). -/
def execLdxAbsy (w : Word) (s : State) : StepResult := toOutcome (loadX (.mem (.absy w)) s)

/-- LDY #Immediate, opcode $A0 (R122). -/
def execLdyImm (b : Byte) (s : State) : StepResult := toOutcome (loadY (.imm b) s)

/-- LDY Zero Page, opcode $A4 (R122). -/
def execLdyZp (b : Byte) (s : State) : StepResult := toOutcome (loadY (.mem (.zp b)) s)

/-- LDY Zero Page,X, opcode $B4 (R122). -/
def execLdyZpx (b : Byte) (s : State) : StepResult := toOutcome (loadY (.mem (.zpx b)) s)

/-- LDY Absolute, opcode $AC (R122). -/
def execLdyAbs (w : Word) (s : State) : StepResult := toOutcome (loadY (.mem (.abs w)) s)

/-- LDY Absolute,X, opcode $BC (R122). -/
def execLdyAbsx (w : Word) (s : State) : StepResult := toOutcome (loadY (.mem (.absx w)) s)

/-- STA Zero Page, opcode $85 (R123). -/
def execStaZp (b : Byte) (s : State) : StepResult := toOutcome (storeA (.zp b) s)

/-- STA Zero Page,X, opcode $95 (R123). -/
def execStaZpx (b : Byte) (s : State) : StepResult := toOutcome (storeA (.zpx b) s)

/-- STA Absolute, opcode $8D (R123). -/
def execStaAbs (w : Word) (s : State) : StepResult := toOutcome (storeA (.abs w) s)

/-- STA Absolute,X, opcode $9D (R123). -/
def execStaAbsx (w : Word) (s : State) : StepResult := toOutcome (storeA (.absx w) s)

/-- STA Absolute,Y, opcode $99 (R123). -/
def execStaAbsy (w : Word) (s : State) : StepResult := toOutcome (storeA (.absy w) s)

/-- STA (Indirect,X), opcode $81 (R123). -/
def execStaIndx (b : Byte) (s : State) : StepResult := toOutcome (storeA (.indx b) s)

/-- STA (Indirect),Y, opcode $91 (R123). -/
def execStaIndy (b : Byte) (s : State) : StepResult := toOutcome (storeA (.indy b) s)

/-- STX Zero Page, opcode $86 (R124). -/
def execStxZp (b : Byte) (s : State) : StepResult := toOutcome (storeX (.zp b) s)

/-- STX Zero Page,Y, opcode $96 (R124). -/
def execStxZpy (b : Byte) (s : State) : StepResult := toOutcome (storeX (.zpy b) s)

/-- STX Absolute, opcode $8E (R124). -/
def execStxAbs (w : Word) (s : State) : StepResult := toOutcome (storeX (.abs w) s)

/-- STY Zero Page, opcode $84 (R125). -/
def execStyZp (b : Byte) (s : State) : StepResult := toOutcome (storeY (.zp b) s)

/-- STY Zero Page,X, opcode $94 (R125). -/
def execStyZpx (b : Byte) (s : State) : StepResult := toOutcome (storeY (.zpx b) s)

/-- STY Absolute, opcode $8C (R125). -/
def execStyAbs (w : Word) (s : State) : StepResult := toOutcome (storeY (.abs w) s)

end Sys2Proof.Machine
end

