-- ==== Sys2Proof/Machine/Arithmetic.lean ====
section
/-! DEFINITION. The Arithmetic instructions ADC, SBC, INC, DEC, INX, DEX, INY, DEY (42_arithmetic.md). -/

namespace Sys2Proof.Machine

/-- Whether ADC and SBC have no meaning here: BCD_ENABLED is true and D = 1 (R142). -/
def decimalActive (s : State) : Bool := s.platform.bcdEnabled && s.flags.d

/-- `A <- (A + M + C) mod 256` with the flags of the binary ADC, from the values before (R140). -/
def addToA (m : Byte) (s : State) : State :=
  (s.setA (adcResult s.a m s.flags.c)).setFlags (adcFlags s.flags s.a m)

/-- ADC: binary, or refused where decimal mode is active (R140, R142; entry 23). -/
def addCarry (src : Source) (s : State) : Access State :=
  if decimalActive s then .error (.decimalArithmetic s.pc) else withSource src addToA s

/-- SBC: ADC of the bitwise NOT of the operand, or refused where decimal mode is active (R141, R142). -/
def subtractCarry (src : Source) (s : State) : Access State :=
  if decimalActive s then .error (.decimalArithmetic s.pc)
  else withSource src (fun m => addToA (sbcOperand m)) s

/-- Change X by a byte operation and take its flags (R145, R146). -/
def stepX (f : ByteOp) (s : State) : State := (s.setX (f s.x s.flags).1).setFlags (f s.x s.flags).2

/-- Change Y by a byte operation and take its flags (R147, R148). -/
def stepY (f : ByteOp) (s : State) : State := (s.setY (f s.y s.flags).1).setFlags (f s.y s.flags).2

/-- ADC #Immediate, opcode $69 (R140). -/
def execAdcImm (b : Byte) (s : State) : StepResult := toOutcome (addCarry (.imm b) s)

/-- ADC Zero Page, opcode $65 (R140). -/
def execAdcZp (b : Byte) (s : State) : StepResult := toOutcome (addCarry (.mem (.zp b)) s)

/-- ADC Zero Page,X, opcode $75 (R140). -/
def execAdcZpx (b : Byte) (s : State) : StepResult := toOutcome (addCarry (.mem (.zpx b)) s)

/-- ADC Absolute, opcode $6D (R140). -/
def execAdcAbs (w : Word) (s : State) : StepResult := toOutcome (addCarry (.mem (.abs w)) s)

/-- ADC Absolute,X, opcode $7D (R140). -/
def execAdcAbsx (w : Word) (s : State) : StepResult := toOutcome (addCarry (.mem (.absx w)) s)

/-- ADC Absolute,Y, opcode $79 (R140). -/
def execAdcAbsy (w : Word) (s : State) : StepResult := toOutcome (addCarry (.mem (.absy w)) s)

/-- ADC (Indirect,X), opcode $61 (R140). -/
def execAdcIndx (b : Byte) (s : State) : StepResult := toOutcome (addCarry (.mem (.indx b)) s)

/-- ADC (Indirect),Y, opcode $71 (R140). -/
def execAdcIndy (b : Byte) (s : State) : StepResult := toOutcome (addCarry (.mem (.indy b)) s)

/-- SBC #Immediate, opcode $E9 (R141). -/
def execSbcImm (b : Byte) (s : State) : StepResult := toOutcome (subtractCarry (.imm b) s)

/-- SBC Zero Page, opcode $E5 (R141). -/
def execSbcZp (b : Byte) (s : State) : StepResult := toOutcome (subtractCarry (.mem (.zp b)) s)

/-- SBC Zero Page,X, opcode $F5 (R141). -/
def execSbcZpx (b : Byte) (s : State) : StepResult := toOutcome (subtractCarry (.mem (.zpx b)) s)

/-- SBC Absolute, opcode $ED (R141). -/
def execSbcAbs (w : Word) (s : State) : StepResult := toOutcome (subtractCarry (.mem (.abs w)) s)

/-- SBC Absolute,X, opcode $FD (R141). -/
def execSbcAbsx (w : Word) (s : State) : StepResult := toOutcome (subtractCarry (.mem (.absx w)) s)

/-- SBC Absolute,Y, opcode $F9 (R141). -/
def execSbcAbsy (w : Word) (s : State) : StepResult := toOutcome (subtractCarry (.mem (.absy w)) s)

/-- SBC (Indirect,X), opcode $E1 (R141). -/
def execSbcIndx (b : Byte) (s : State) : StepResult := toOutcome (subtractCarry (.mem (.indx b)) s)

/-- SBC (Indirect),Y, opcode $F1 (R141). -/
def execSbcIndy (b : Byte) (s : State) : StepResult := toOutcome (subtractCarry (.mem (.indy b)) s)

/-- INC Zero Page, opcode $E6 (R143). -/
def execIncZp (b : Byte) (s : State) : StepResult := toOutcome (modifyMem (.zp b) incByte s)

/-- INC Zero Page,X, opcode $F6 (R143). -/
def execIncZpx (b : Byte) (s : State) : StepResult := toOutcome (modifyMem (.zpx b) incByte s)

/-- INC Absolute, opcode $EE (R143). -/
def execIncAbs (w : Word) (s : State) : StepResult := toOutcome (modifyMem (.abs w) incByte s)

/-- INC Absolute,X, opcode $FE (R143). -/
def execIncAbsx (w : Word) (s : State) : StepResult := toOutcome (modifyMem (.absx w) incByte s)

/-- DEC Zero Page, opcode $C6 (R144). -/
def execDecZp (b : Byte) (s : State) : StepResult := toOutcome (modifyMem (.zp b) decByte s)

/-- DEC Zero Page,X, opcode $D6 (R144). -/
def execDecZpx (b : Byte) (s : State) : StepResult := toOutcome (modifyMem (.zpx b) decByte s)

/-- DEC Absolute, opcode $CE (R144). -/
def execDecAbs (w : Word) (s : State) : StepResult := toOutcome (modifyMem (.abs w) decByte s)

/-- DEC Absolute,X, opcode $DE (R144). -/
def execDecAbsx (w : Word) (s : State) : StepResult := toOutcome (modifyMem (.absx w) decByte s)

/-- INX Implied, opcode $E8 (R145). -/
def execInx (s : State) : StepResult := toOutcome (implied (fun s => stepX incByte s) s)

/-- DEX Implied, opcode $CA (R146). -/
def execDex (s : State) : StepResult := toOutcome (implied (fun s => stepX decByte s) s)

/-- INY Implied, opcode $C8 (R147). -/
def execIny (s : State) : StepResult := toOutcome (implied (fun s => stepY incByte s) s)

/-- DEY Implied, opcode $88 (R148). -/
def execDey (s : State) : StepResult := toOutcome (implied (fun s => stepY decByte s) s)

end Sys2Proof.Machine
end

