-- ==== Sys2Proof/Machine/Bitwise.lean ====
section
/-! DEFINITION. The Bitwise instructions AND, ORA, EOR, BIT (44_bitwise.md). -/

namespace Sys2Proof.Machine

/-- `A <- A & M; SetNZ(A)` (R165). -/
def andA (src : Source) : State → Access State :=
  withSource src fun m s => setNZ (s.a &&& m) (s.setA (s.a &&& m))

/-- `A <- A | M; SetNZ(A)` (R166). -/
def orA (src : Source) : State → Access State :=
  withSource src fun m s => setNZ (s.a ||| m) (s.setA (s.a ||| m))

/-- `A <- A ^ M; SetNZ(A)` (R167). -/
def eorA (src : Source) : State → Access State :=
  withSource src fun m s => setNZ (s.a ^^^ m) (s.setA (s.a ^^^ m))

/-- Z from `A & M`, V and N from M; A and memory are unchanged (R168). -/
def bitTest (src : Source) : State → Access State :=
  withSource src fun m s => s.setFlags (bitTestFlags s.flags s.a m)

/-- AND #Immediate, opcode $29 (R165). -/
def execAndImm (b : Byte) (s : State) : StepResult := toOutcome (andA (.imm b) s)

/-- AND Zero Page, opcode $25 (R165). -/
def execAndZp (b : Byte) (s : State) : StepResult := toOutcome (andA (.mem (.zp b)) s)

/-- AND Zero Page,X, opcode $35 (R165). -/
def execAndZpx (b : Byte) (s : State) : StepResult := toOutcome (andA (.mem (.zpx b)) s)

/-- AND Absolute, opcode $2D (R165). -/
def execAndAbs (w : Word) (s : State) : StepResult := toOutcome (andA (.mem (.abs w)) s)

/-- AND Absolute,X, opcode $3D (R165). -/
def execAndAbsx (w : Word) (s : State) : StepResult := toOutcome (andA (.mem (.absx w)) s)

/-- AND Absolute,Y, opcode $39 (R165). -/
def execAndAbsy (w : Word) (s : State) : StepResult := toOutcome (andA (.mem (.absy w)) s)

/-- AND (Indirect,X), opcode $21 (R165). -/
def execAndIndx (b : Byte) (s : State) : StepResult := toOutcome (andA (.mem (.indx b)) s)

/-- AND (Indirect),Y, opcode $31 (R165). -/
def execAndIndy (b : Byte) (s : State) : StepResult := toOutcome (andA (.mem (.indy b)) s)

/-- ORA #Immediate, opcode $09 (R166). -/
def execOraImm (b : Byte) (s : State) : StepResult := toOutcome (orA (.imm b) s)

/-- ORA Zero Page, opcode $05 (R166). -/
def execOraZp (b : Byte) (s : State) : StepResult := toOutcome (orA (.mem (.zp b)) s)

/-- ORA Zero Page,X, opcode $15 (R166). -/
def execOraZpx (b : Byte) (s : State) : StepResult := toOutcome (orA (.mem (.zpx b)) s)

/-- ORA Absolute, opcode $0D (R166). -/
def execOraAbs (w : Word) (s : State) : StepResult := toOutcome (orA (.mem (.abs w)) s)

/-- ORA Absolute,X, opcode $1D (R166). -/
def execOraAbsx (w : Word) (s : State) : StepResult := toOutcome (orA (.mem (.absx w)) s)

/-- ORA Absolute,Y, opcode $19 (R166). -/
def execOraAbsy (w : Word) (s : State) : StepResult := toOutcome (orA (.mem (.absy w)) s)

/-- ORA (Indirect,X), opcode $01 (R166). -/
def execOraIndx (b : Byte) (s : State) : StepResult := toOutcome (orA (.mem (.indx b)) s)

/-- ORA (Indirect),Y, opcode $11 (R166). -/
def execOraIndy (b : Byte) (s : State) : StepResult := toOutcome (orA (.mem (.indy b)) s)

/-- EOR #Immediate, opcode $49 (R167). -/
def execEorImm (b : Byte) (s : State) : StepResult := toOutcome (eorA (.imm b) s)

/-- EOR Zero Page, opcode $45 (R167). -/
def execEorZp (b : Byte) (s : State) : StepResult := toOutcome (eorA (.mem (.zp b)) s)

/-- EOR Zero Page,X, opcode $55 (R167). -/
def execEorZpx (b : Byte) (s : State) : StepResult := toOutcome (eorA (.mem (.zpx b)) s)

/-- EOR Absolute, opcode $4D (R167). -/
def execEorAbs (w : Word) (s : State) : StepResult := toOutcome (eorA (.mem (.abs w)) s)

/-- EOR Absolute,X, opcode $5D (R167). -/
def execEorAbsx (w : Word) (s : State) : StepResult := toOutcome (eorA (.mem (.absx w)) s)

/-- EOR Absolute,Y, opcode $59 (R167). -/
def execEorAbsy (w : Word) (s : State) : StepResult := toOutcome (eorA (.mem (.absy w)) s)

/-- EOR (Indirect,X), opcode $41 (R167). -/
def execEorIndx (b : Byte) (s : State) : StepResult := toOutcome (eorA (.mem (.indx b)) s)

/-- EOR (Indirect),Y, opcode $51 (R167). -/
def execEorIndy (b : Byte) (s : State) : StepResult := toOutcome (eorA (.mem (.indy b)) s)

/-- BIT Zero Page, opcode $24 (R168). -/
def execBitZp (b : Byte) (s : State) : StepResult := toOutcome (bitTest (.mem (.zp b)) s)

/-- BIT Absolute, opcode $2C (R168). -/
def execBitAbs (w : Word) (s : State) : StepResult := toOutcome (bitTest (.mem (.abs w)) s)

end Sys2Proof.Machine
end

