-- ==== Sys2Proof/Machine/Branch.lean ====
section
/-! DEFINITION. The Branch instructions BCC, BCS, BEQ, BNE, BPL, BMI, BVC, BVS (46_branch.md). -/

namespace Sys2Proof.Machine

/-- `(pc0 + 2 + offset) mod 65536` (R180, 30_encoding.md R93). -/
def branchTarget (pc0 : Word) (offset : Int) : Word := pc0 + 2 + BitVec.ofInt 16 offset

/-- The common branch operation (R180): PC to the target if the condition holds, else to the next instruction.
2 cycles, 3 if taken, 4 if the page of the next instruction is left. A taken branch reads the next opcode, and
across a page also at the target without the carry, and discards both (70_reset_and_hazards.md R296, U9). -/
def branch (cond : Bool) (offset : Int) (s : State) : Access State := do
  let next := s.pc + 2
  let target := branchTarget s.pc offset
  if cond then
    extraRead next s
    if pageCrossed next target then
      extraRead (wordOf (hi8 next) (lo8 target)) s
      pure ((s.setPc target).tick 4)
    else pure ((s.setPc target).tick 3)
  else pure ((s.setPc next).tick 2)

/-- BCC Relative, opcode $90 (R181). -/
def execBcc (offset : Int) (s : State) : StepResult := toOutcome (branch (!s.flags.c) offset s)

/-- BCS Relative, opcode $B0 (R182). -/
def execBcs (offset : Int) (s : State) : StepResult := toOutcome (branch (s.flags.c) offset s)

/-- BEQ Relative, opcode $F0 (R183). -/
def execBeq (offset : Int) (s : State) : StepResult := toOutcome (branch (s.flags.z) offset s)

/-- BNE Relative, opcode $D0 (R184). -/
def execBne (offset : Int) (s : State) : StepResult := toOutcome (branch (!s.flags.z) offset s)

/-- BPL Relative, opcode $10 (R185). -/
def execBpl (offset : Int) (s : State) : StepResult := toOutcome (branch (!s.flags.n) offset s)

/-- BMI Relative, opcode $30 (R186). -/
def execBmi (offset : Int) (s : State) : StepResult := toOutcome (branch (s.flags.n) offset s)

/-- BVC Relative, opcode $50 (R187). -/
def execBvc (offset : Int) (s : State) : StepResult := toOutcome (branch (!s.flags.v) offset s)

/-- BVS Relative, opcode $70 (R188). -/
def execBvs (offset : Int) (s : State) : StepResult := toOutcome (branch (s.flags.v) offset s)

end Sys2Proof.Machine
end

