-- ==== Sys2Proof/Machine/Compare.lean ====
section
/-! DEFINITION. The Compare instructions CMP, CPX, CPY (45_compare.md). -/

namespace Sys2Proof.Machine

/-- Set C, Z and N from register − M; no register and no memory byte changes (R175 to R177). -/
def compareWith (register : State → Byte) (src : Source) : State → Access State :=
  withSource src fun m s => s.setFlags (compareFlags s.flags (register s) m)

/-- CMP #Immediate, opcode $C9 (R175). -/
def execCmpImm (b : Byte) (s : State) : StepResult := toOutcome (compareWith (fun s => s.a) (.imm b) s)

/-- CMP Zero Page, opcode $C5 (R175). -/
def execCmpZp (b : Byte) (s : State) : StepResult := toOutcome (compareWith (fun s => s.a) (.mem (.zp b)) s)

/-- CMP Zero Page,X, opcode $D5 (R175). -/
def execCmpZpx (b : Byte) (s : State) : StepResult := toOutcome (compareWith (fun s => s.a) (.mem (.zpx b)) s)

/-- CMP Absolute, opcode $CD (R175). -/
def execCmpAbs (w : Word) (s : State) : StepResult := toOutcome (compareWith (fun s => s.a) (.mem (.abs w)) s)

/-- CMP Absolute,X, opcode $DD (R175). -/
def execCmpAbsx (w : Word) (s : State) : StepResult := toOutcome (compareWith (fun s => s.a) (.mem (.absx w)) s)

/-- CMP Absolute,Y, opcode $D9 (R175). -/
def execCmpAbsy (w : Word) (s : State) : StepResult := toOutcome (compareWith (fun s => s.a) (.mem (.absy w)) s)

/-- CMP (Indirect,X), opcode $C1 (R175). -/
def execCmpIndx (b : Byte) (s : State) : StepResult := toOutcome (compareWith (fun s => s.a) (.mem (.indx b)) s)

/-- CMP (Indirect),Y, opcode $D1 (R175). -/
def execCmpIndy (b : Byte) (s : State) : StepResult := toOutcome (compareWith (fun s => s.a) (.mem (.indy b)) s)

/-- CPX #Immediate, opcode $E0 (R176). -/
def execCpxImm (b : Byte) (s : State) : StepResult := toOutcome (compareWith (fun s => s.x) (.imm b) s)

/-- CPX Zero Page, opcode $E4 (R176). -/
def execCpxZp (b : Byte) (s : State) : StepResult := toOutcome (compareWith (fun s => s.x) (.mem (.zp b)) s)

/-- CPX Absolute, opcode $EC (R176). -/
def execCpxAbs (w : Word) (s : State) : StepResult := toOutcome (compareWith (fun s => s.x) (.mem (.abs w)) s)

/-- CPY #Immediate, opcode $C0 (R177). -/
def execCpyImm (b : Byte) (s : State) : StepResult := toOutcome (compareWith (fun s => s.y) (.imm b) s)

/-- CPY Zero Page, opcode $C4 (R177). -/
def execCpyZp (b : Byte) (s : State) : StepResult := toOutcome (compareWith (fun s => s.y) (.mem (.zp b)) s)

/-- CPY Absolute, opcode $CC (R177). -/
def execCpyAbs (w : Word) (s : State) : StepResult := toOutcome (compareWith (fun s => s.y) (.mem (.abs w)) s)

end Sys2Proof.Machine
end

