-- ==== Sys2Proof/Machine/FlagInstructions.lean ====
section
/-! DEFINITION. The flag instructions CLC, SEC, CLI, SEI, CLD, SED, CLV, and NOP (49_flags_other.md). The delayed
effect of I after CLI and SEI is in the poll (Machine/Interrupt.lean, pollFlag). -/

namespace Sys2Proof.Machine

/-- CLC Implied, opcode $18 (R220). -/
def execClc (s : State) : StepResult := toOutcome (implied (fun s => s.setFlags { s.flags with c := false }) s)

/-- SEC Implied, opcode $38 (R221). -/
def execSec (s : State) : StepResult := toOutcome (implied (fun s => s.setFlags { s.flags with c := true }) s)

/-- CLI Implied, opcode $58 (R222). -/
def execCli (s : State) : StepResult := toOutcome (implied (fun s => s.setFlags { s.flags with i := false }) s)

/-- SEI Implied, opcode $78 (R223). -/
def execSei (s : State) : StepResult := toOutcome (implied (fun s => s.setFlags { s.flags with i := true }) s)

/-- CLD Implied, opcode $D8 (R224). -/
def execCld (s : State) : StepResult := toOutcome (implied (fun s => s.setFlags { s.flags with d := false }) s)

/-- SED Implied, opcode $F8 (R225). -/
def execSed (s : State) : StepResult := toOutcome (implied (fun s => s.setFlags { s.flags with d := true }) s)

/-- CLV Implied, opcode $B8 (R226). -/
def execClv (s : State) : StepResult := toOutcome (implied (fun s => s.setFlags { s.flags with v := false }) s)

/-- NOP Implied, opcode $EA (R227). -/
def execNop (s : State) : StepResult := toOutcome (implied (fun s => s) s)

end Sys2Proof.Machine
end

