-- ==== Sys2Proof/Machine/Interrupt.lean ====
section
/-! DEFINITION. The inputs of a step, the overflow pin, the interrupt poll, the interrupt sequence and reset
(60_exceptions.md R240 to R250, 70_reset_and_hazards.md R280). BRK and RTI are in Machine/Jump.lean, over the
shared entry and return of Machine/Ops.lean. -/

namespace Sys2Proof.Machine

/-- The input of the step that is being taken: the first listed one, and past the end of the list the free input
(60_exceptions.md R243, R262; entry 1). -/
def nextInput (s : State) : Input :=
  match s.inputs with
  | i :: _ => i
  | [] => Config.laterInput s.steps

/-- The `env` of the step that is being taken (60_exceptions.md R243). A reset step reads none of it. -/
def currentEnv (s : State) : Env :=
  match nextInput s with
  | .env e => e
  | .reset _ => {}

/-- The step has taken its input. -/
def popInput (s : State) : State := (s.setInputs s.inputs.tail).countStep

/-- The flags with V = 1. -/
def Flags.setV (f : Flags) : Flags := { f with v := true }

/-- The overflow pin (10_state.md R31, 60_exceptions.md R240): with SO_PIN, `env.so` sets V at the start of the
step and changes nothing else. -/
def overflowPin (s : State) : State :=
  if s.platform.soPin ∧ (currentEnv s).so then s.setFlags s.flags.setV else s

/-- What a poll latches: NMI before IRQ, and IRQ only when the I the poll sees is 0 (60_exceptions.md R246,
R248; entries 12 and 15). -/
def pollOutcome (pending irq iPoll : Bool) : Option Interrupt :=
  if pending then some .nmi else if irq ∧ ¬ iPoll then some .irq else none

/-- `Poll(env, I_poll)` (60_exceptions.md R246). -/
def poll (iPoll : Bool) (s : State) : State :=
  let pending := s.nmiPending || (currentEnv s).nmiEdge
  (s.setNmiPending pending).setIntLatch (pollOutcome pending (currentEnv s).irq iPoll)

/-- Which I the poll of an instruction sees (60_exceptions.md R246): none for BRK, which does not poll; the I
before the instruction for CLI, SEI and PLP; the I after it for every other, RTI among them. -/
def pollFlag (op : Op) (before after : Bool) : Option Bool :=
  match op with
  | .brk => none
  | .cli | .sei | .plp => some before
  | .lda | .sta | .ldx | .stx | .ldy | .sty | .tax | .txa | .tay | .tya | .adc | .sbc | .inc | .dec | .inx | .dex
  | .iny | .dey | .asl | .lsr | .rol | .ror | .and | .ora | .eor | .bit | .cmp | .cpx | .cpy | .bcc | .bcs | .beq
  | .bne | .bpl | .bmi | .bvc | .bvs | .jmp | .jsr | .rts | .rti | .pha | .pla | .php | .txs | .tsx | .clc | .sec
  | .cld | .sed | .clv | .nop => some after

/-- The poll after an instruction, if it polls (60_exceptions.md R240). `before` is I as it was when the
instruction began. -/
def pollAfter (op : Op) (before : Bool) (s : State) : State :=
  match pollFlag op before s.flags.i with
  | none => s
  | some iPoll => poll iPoll s

/-- The vector of a hardware interrupt (60_exceptions.md R251). -/
def vectorOf (p : Platform) : Interrupt → Word
  | .irq => Config.irqVector
  | .nmi => p.nmiVector

/-- `nmi_pending` after an interrupt sequence: an NMI that is serviced is no longer pending, and an edge that
arrives during the sequence is held (60_exceptions.md R250). -/
def pendingAfterEntry (kind : Interrupt) (pending edge : Bool) : Bool :=
  match kind with
  | .irq => pending || edge
  | .nmi => edge

/-- The interrupt sequence (60_exceptions.md R250): B is pushed as 0, the return address is the PC of the
instruction not yet executed, the sequence does not poll, and it takes 7 cycles (PRESUMED, entry 9). The chip
reads the opcode it does not execute (U9). -/
def interruptEntry (kind : Interrupt) (s : State) : Access State := do
  extraRead s.pc s
  let pending := pendingAfterEntry kind s.nmiPending (currentEnv s).nmiEdge
  let s ← takeInterrupt s.pc false (vectorOf s.platform kind) s
  pure (((s.setNmiPending pending).setIntLatch none).tick 7)

/-- The flags reset leaves: I = 1 and a draw for each of the others (70_reset_and_hazards.md R280). -/
def resetFlags (d : ResetDraw) : Flags where
  n := d.n
  v := d.v
  d := d.d
  i := true
  z := d.z
  c := d.c

/-- `Reset()` (70_reset_and_hazards.md R280): A, X, Y, SP and the flags but I are draws, I = 1, nothing is
pending or latched, PC is read through RESET_VECTOR, and memory is not written. 7 cycles (PRESUMED, entry 9). -/
def takeReset (d : ResetDraw) (s : State) : Access State := do
  let (target, s) ← read16 s.platform.resetVector s
  let s := (((s.setA d.a).setX d.x).setY d.y).setSp d.sp
  pure ((((s.setFlags (resetFlags d)).setNmiPending false).setIntLatch none).setPc target |>.tick 7)

end Sys2Proof.Machine
end

