-- ==== Sys2Proof/Machine/Jump.lean ====
section
/-! DEFINITION. The Jump instructions JMP, JSR, RTS, BRK, RTI (47_jump.md). -/

namespace Sys2Proof.Machine

/-- JMP (Indirect) (R196): the pointer's second byte is in the same page as the first, the carry is lost. -/
def jumpIndirect (p : Word) (s : State) : Access State := do
  let (target, s) ← readPair p (wordOf (hi8 p) (lo8 p + 1)) s
  pure ((s.setPc target).tick 5)

/-- JSR (R197): push pc0 + 2, high byte first, and go to the target. The operand bytes are read before the
pushes (92_eei_decisions.md D19; entry 18). The chip reads `$0100 + SP` after `b1` and discards it (U9).
DESIGN CHOICE (entry 36; safe): only that discarded read is an extra read in the sense of D8; `b2` and the two pushes
are accesses of R60 and may fall on a device. Its check stands here, after the fetch of `b2`. -/
def jumpSubroutine (target : Word) (s : State) : Access State := do
  extraRead (stackAddr s.sp) s
  let s ← pushWord (s.pc + 2) s
  pure ((s.setPc target).tick 6)

/-- RTS (R198): pull a word, PC is the word plus 1. The chip also reads pc0 + 1, `$0100 + SP` and the pulled
address, and discards them (U9). -/
def returnSubroutine (s : State) : Access State := do
  extraRead (s.pc + 1) s
  extraRead (stackAddr s.sp) s
  let (w, s) ← pullWord s
  extraRead w s
  pure ((s.setPc (w + 1)).tick 6)

/-- Whether an NMI takes over a BRK: it is pending as the BRK starts, or its edge arrives during the BRK and the
environment says it is early enough (R199, 92_eei_decisions.md D18; entry 17). -/
def brkHijacked (s : State) : Bool :=
  s.nmiPending || ((currentEnv s).nmiEdge && (currentEnv s).nmiHijacksBrk)

/-- BRK (R199): the shared entry with return address pc0 + 2 and B = 1, through the IRQ vector, or through the
NMI vector if an NMI takes over. An edge that does not take over is held. BRK makes no poll. -/
def breakInterrupt (s : State) : Access State := do
  extraRead (s.pc + 1) s
  let hijacked := brkHijacked s
  let pending := !hijacked && (currentEnv s).nmiEdge
  let vector := if hijacked then s.platform.nmiVector else Config.irqVector
  let s ← takeInterrupt (s.pc + 2) true vector s
  pure (((s.setNmiPending pending).setIntLatch none).tick 7)

/-- RTI (R200): the shared return. The chip also reads pc0 + 1 and `$0100 + SP` and discards them (U9). -/
def returnInterrupt (s : State) : Access State := do
  extraRead (s.pc + 1) s
  extraRead (stackAddr s.sp) s
  let s ← returnFromInterrupt s
  pure (s.tick 6)

/-- JMP Absolute, opcode $4C (R195). -/
def execJmpAbs (w : Word) (s : State) : StepResult := toOutcome (.ok ((s.setPc w).tick 3))

/-- JMP (Indirect), opcode $6C (R196). -/
def execJmpInd (p : Word) (s : State) : StepResult := toOutcome (jumpIndirect p s)

/-- JSR Absolute, opcode $20 (R197). -/
def execJsr (w : Word) (s : State) : StepResult := toOutcome (jumpSubroutine w s)

/-- RTS Implied, opcode $60 (R198). -/
def execRts (s : State) : StepResult := toOutcome (returnSubroutine s)

/-- BRK Implied, opcode $00 (R199). -/
def execBrk (s : State) : StepResult := toOutcome (breakInterrupt s)

/-- RTI Implied, opcode $40 (R200). -/
def execRti (s : State) : StepResult := toOutcome (returnInterrupt s)

end Sys2Proof.Machine
end

