-- ==== Sys2Proof/Machine/Shift.lean ====
section
/-! DEFINITION. The Shift instructions ASL, LSR, ROL, ROR (43_shift.md): on A, or read-modify-write on memory
(R155). -/

namespace Sys2Proof.Machine

/-- ASL Accumulator, opcode $0A (R156). -/
def execAslAcc (s : State) : StepResult := toOutcome (modifyA aslByte s)

/-- ASL Zero Page, opcode $06 (R156). -/
def execAslZp (b : Byte) (s : State) : StepResult := toOutcome (modifyMem (.zp b) aslByte s)

/-- ASL Zero Page,X, opcode $16 (R156). -/
def execAslZpx (b : Byte) (s : State) : StepResult := toOutcome (modifyMem (.zpx b) aslByte s)

/-- ASL Absolute, opcode $0E (R156). -/
def execAslAbs (w : Word) (s : State) : StepResult := toOutcome (modifyMem (.abs w) aslByte s)

/-- ASL Absolute,X, opcode $1E (R156). -/
def execAslAbsx (w : Word) (s : State) : StepResult := toOutcome (modifyMem (.absx w) aslByte s)

/-- LSR Accumulator, opcode $4A (R157). -/
def execLsrAcc (s : State) : StepResult := toOutcome (modifyA lsrByte s)

/-- LSR Zero Page, opcode $46 (R157). -/
def execLsrZp (b : Byte) (s : State) : StepResult := toOutcome (modifyMem (.zp b) lsrByte s)

/-- LSR Zero Page,X, opcode $56 (R157). -/
def execLsrZpx (b : Byte) (s : State) : StepResult := toOutcome (modifyMem (.zpx b) lsrByte s)

/-- LSR Absolute, opcode $4E (R157). -/
def execLsrAbs (w : Word) (s : State) : StepResult := toOutcome (modifyMem (.abs w) lsrByte s)

/-- LSR Absolute,X, opcode $5E (R157). -/
def execLsrAbsx (w : Word) (s : State) : StepResult := toOutcome (modifyMem (.absx w) lsrByte s)

/-- ROL Accumulator, opcode $2A (R158). -/
def execRolAcc (s : State) : StepResult := toOutcome (modifyA rolByte s)

/-- ROL Zero Page, opcode $26 (R158). -/
def execRolZp (b : Byte) (s : State) : StepResult := toOutcome (modifyMem (.zp b) rolByte s)

/-- ROL Zero Page,X, opcode $36 (R158). -/
def execRolZpx (b : Byte) (s : State) : StepResult := toOutcome (modifyMem (.zpx b) rolByte s)

/-- ROL Absolute, opcode $2E (R158). -/
def execRolAbs (w : Word) (s : State) : StepResult := toOutcome (modifyMem (.abs w) rolByte s)

/-- ROL Absolute,X, opcode $3E (R158). -/
def execRolAbsx (w : Word) (s : State) : StepResult := toOutcome (modifyMem (.absx w) rolByte s)

/-- ROR Accumulator, opcode $6A (R159). -/
def execRorAcc (s : State) : StepResult := toOutcome (modifyA rorByte s)

/-- ROR Zero Page, opcode $66 (R159). -/
def execRorZp (b : Byte) (s : State) : StepResult := toOutcome (modifyMem (.zp b) rorByte s)

/-- ROR Zero Page,X, opcode $76 (R159). -/
def execRorZpx (b : Byte) (s : State) : StepResult := toOutcome (modifyMem (.zpx b) rorByte s)

/-- ROR Absolute, opcode $6E (R159). -/
def execRorAbs (w : Word) (s : State) : StepResult := toOutcome (modifyMem (.abs w) rorByte s)

/-- ROR Absolute,X, opcode $7E (R159). -/
def execRorAbsx (w : Word) (s : State) : StepResult := toOutcome (modifyMem (.absx w) rorByte s)

end Sys2Proof.Machine
end

