-- ==== Sys2Proof/Machine/Stack.lean ====
section
/-! DEFINITION. The Stack instructions PHA, PLA, PHP, PLP, TXS, TSX (48_stack.md). -/

namespace Sys2Proof.Machine

/-- Push a byte of the state and go to the next instruction, 3 cycles (R210, R212). The chip also reads pc0 + 1
and discards it (93_implementation_defined.md U9). -/
def pushRegister (value : State → Byte) (s : State) : Access State := do
  extraRead (s.pc + 1) s
  let s ← push (value s) s
  pure (advance 1 (s.tick 3))

/-- Pull a byte into the state and go to the next instruction, 4 cycles (R211, R213). The chip also reads
pc0 + 1 and `$0100 + SP` and discards them (U9). -/
def pullRegister (f : Byte → State → State) (s : State) : Access State := do
  extraRead (s.pc + 1) s
  extraRead (stackAddr s.sp) s
  let (v, s) ← pull s
  pure (advance 1 ((f v s).tick 4))

/-- PHA Implied, opcode $48 (R210). -/
def execPha (s : State) : StepResult := toOutcome (pushRegister (fun s => s.a) s)

/-- PLA Implied, opcode $68 (R211). -/
def execPla (s : State) : StepResult := toOutcome (pullRegister (fun v s => setNZ v (s.setA v)) s)

/-- PHP Implied, opcode $08 (R212). -/
def execPhp (s : State) : StepResult := toOutcome (pushRegister (fun s => packP true s.flags) s)

/-- PLP Implied, opcode $28 (R213). -/
def execPlp (s : State) : StepResult := toOutcome (pullRegister (fun v s => s.setFlags (unpackP v)) s)

/-- TXS Implied, opcode $9A (R216). -/
def execTxs (s : State) : StepResult := toOutcome (implied (fun s => s.setSp s.x) s)

/-- TSX Implied, opcode $BA (R217). -/
def execTsx (s : State) : StepResult := toOutcome (implied (fun s => setNZ s.sp (s.setX s.sp)) s)

end Sys2Proof.Machine
end

