-- ==== Sys2Proof/Machine/Transfer.lean ====
section
/-! DEFINITION. The Transfer instructions TAX, TXA, TAY, TYA (41_transfer.md). -/

namespace Sys2Proof.Machine

/-- TAX Implied, opcode $AA (R130). -/
def execTax (s : State) : StepResult := toOutcome (implied (fun s => setNZ s.a (s.setX s.a)) s)

/-- TXA Implied, opcode $8A (R131). -/
def execTxa (s : State) : StepResult := toOutcome (implied (fun s => setNZ s.x (s.setA s.x)) s)

/-- TAY Implied, opcode $A8 (R132). -/
def execTay (s : State) : StepResult := toOutcome (implied (fun s => setNZ s.a (s.setY s.a)) s)

/-- TYA Implied, opcode $98 (R133). -/
def execTya (s : State) : StepResult := toOutcome (implied (fun s => setNZ s.y (s.setA s.y)) s)

end Sys2Proof.Machine
end

