-- ==== Sys2Proof/Machine/Fetch.lean ====
section
/-! DEFINITION. Fetching an instruction at the program counter (60_exceptions.md R240, 20_memory.md R60), and
placing an instruction where the next step fetches it. -/

namespace Sys2Proof.Machine

/-- Read the opcode at PC and then the operand bytes its layout says, at PC + 1 and PC + 2 (mod 65536), in
that order; PC still holds the opcode's address (00_scope.md R10). An undocumented opcode is refused after the
opcode read alone (30_encoding.md R101). -/
def fetch (s : State) : Access (Instr × State) := do
  let (opcode, s) ← memRead s.pc s
  match layoutOf opcode with
  | none => .error (.undocumentedOpcode opcode s.pc)
  | some (.f1 i) => pure (i, s)
  | some (.f2 make) =>
    let (b1, s) ← memRead (s.pc + 1) s
    pure (make b1, s)
  | some (.f3 make) =>
    let (b1, s) ← memRead (s.pc + 1) s
    let (b2, s) ← memRead (s.pc + 2) s
    pure (make (wordOf b2 b1), s)

/-- Put a byte in a cell, as a harness does (70_reset_and_hazards.md R288; entry 6): on an address whose kind
holds no cell, the address becomes `ram`. -/
def placeByte (addr : Word) (v : Byte) (s : State) : State :=
  let s := s.setMem (s.mem.write addr.toNat v)
  match kindAt s.platform addr with
  | .ram => s
  | .rom => s
  | .device => s.setPlatform { s.platform with regions := ⟨addr, addr, .ram⟩ :: s.platform.regions }
  | .unmapped => s.setPlatform { s.platform with regions := ⟨addr, addr, .ram⟩ :: s.platform.regions }

/-- The bytes, from an address upwards (mod 65536). -/
def placeBytes (addr : Word) : List Byte → State → State
  | [], s => s
  | v :: rest, s => placeBytes (addr + 1) rest (placeByte addr v s)

/-- The inputs from the first one that is no reset. -/
def dropResets : List Input → List Input
  | .reset _ :: rest => dropResets rest
  | l => l

/-- Inputs whose first one is listed and no reset: a quiet one stands before the free inputs of an empty list. -/
def runInputs (l : List Input) : List Input :=
  match dropResets l with
  | [] => [.env {}]
  | i :: rest => i :: rest

/-- The state with an instruction's three bytes at PC, nothing latched, and no reset before the next step
(entry 6). -/
def placeFetch (s : State) (nbits w : Nat) : State :=
  placeBytes s.pc (tableBytes nbits w) ((s.setIntLatch none).setInputs (runInputs s.inputs))

end Sys2Proof.Machine
end

