-- ==== Sys2Proof/Machine/Sequencer.lean ====
section
/-! DEFINITION. One step of the machine (60_exceptions.md R240): a reset, or an interrupt sequence, or an
instruction followed by its poll. -/

namespace Sys2Proof.Machine

/-- What follows an instruction: its poll (R246), and the step has taken its input. `before` is I as it was when
the instruction began. -/
def finishInstr (op : Op) (before : Bool) (s : State) : State := popInput (pollAfter op before s)

/-- A step that is an instruction: fetch, execute, poll (R240). -/
def stepInstr (s : State) : StepResult :=
  match fetch s with
  | .error r => .refused r
  | .ok (i, s) =>
    match exec i s with
    | .next t => .next (finishInstr i.op s.flags.i t)
    | .fault f => .fault f
    | .refused r => .refused r

/-- A step that is an interrupt sequence: it does not poll (R250). -/
def stepInterrupt (kind : Interrupt) (s : State) : StepResult :=
  toOutcome (popInput <$> interruptEntry kind s)

/-- A step that is a reset (70_reset_and_hazards.md R280). -/
def stepReset (d : ResetDraw) (s : State) : StepResult := toOutcome (popInput <$> takeReset d s)

/-- A step with the input record `currentEnv s` (R240): the overflow pin first, then the latched interrupt if
there is one, else an instruction. -/
def stepEnv (s : State) : StepResult :=
  match s.intLatch with
  | some kind => stepInterrupt kind (overflowPin s)
  | none => stepInstr (overflowPin s)

/-- One step: a reset where the environment applies it, else a step of R240. -/
def sequence (s : State) : StepResult :=
  match nextInput s with
  | .reset d => stepReset d s
  | .env _ => stepEnv s

end Sys2Proof.Machine
end

