-- ==== Sys2Proof/Machine/Step.lean ====
section
/-! DEFINITION. The step the host runs, and the state in which a given instruction is the next one. -/

namespace Sys2Proof.Machine

/-- One step of the machine (60_exceptions.md R240; Machine/Sequencer.lean). -/
def step : State → Host.Outcome State Fault Refusal := fun s => sequence s

/-- The state in which the very next step fetches and runs the instruction whose bits are `w` (entry 6). -/
def State.withFetchWord (s : State) (nbits w : Nat) : State := placeFetch s nbits w

end Sys2Proof.Machine
end

