-- ==== Sys2Proof/Safety.lean ====
section
/-! DEFINITION. The terms claims use: the end of a run (70_reset_and_hazards.md R287), which instructions the spec
says write which register, flag or memory, the opcodes without a meaning, and what an access leaves of a state. -/

namespace Sys2Proof.Machine

/-- END_OF_RUN by default: a step begins with PC = END_PC, before that instruction is fetched (00_scope.md R6,
70_reset_and_hazards.md R287). It is the harness's predicate and no part of `step` (entry 35). -/
def endOfRun (endPc : Word) (s : State) : Bool := decide (s.pc = endPc)

/-- A run to END_PC of at most so many steps: the state in which it is over, or none if it is not over by then
or a step has no next state (R287). -/
def runTo (endPc : Word) : Nat → State → Option State
  | 0, s => if endOfRun endPc s then some s else none
  | k + 1, s =>
    if endOfRun endPc s then some s
    else match step s with
      | .next t => runTo endPc k t
      | .fault _ => none
      | .refused _ => none

/-- The next step is a reset. -/
def resetNext (s : State) : Bool :=
  match nextInput s with
  | .reset _ => true
  | .env _ => false

/-- The address has a memory cell behind it that a read returns: its kind is `ram` or `rom` (20_memory.md R54). -/
def holdsCell (p : Platform) (addr : Word) : Prop := kindAt p addr = .ram ∨ kindAt p addr = .rom

/-- Every address is `ram`: the default map (20_memory.md R58). -/
def AllRam (p : Platform) : Prop := ∀ addr : Word, kindAt p addr = .ram

/-- The cells after a MemWrite at a mapped address: written if the address is `ram`, unchanged if it is `rom` or
`device` (20_memory.md R55). -/
def cellStore (p : Platform) (m : Memory) (addr : Word) (v : Byte) : Memory :=
  if kindAt p addr = .ram then m.write addr.toNat v else m

/-- The state `s` with the bus history of `u`: the event history and what device reads have taken. -/
def State.withBus (s u : State) : State :=
  { s with deviceIn := u.deviceIn, deviceReads := u.deviceReads, trace := u.trace }

/-- The byte of the cell at an address, read as memory stands. -/
def cellAt (m : Memory) (addr : Word) : Byte := m.read addr.toNat

/-- The word whose low byte is in the cell at the first address and whose high byte is in that at the second. -/
def cellPair (m : Memory) (addrLo addrHi : Word) : Word := wordOf (cellAt m addrHi) (cellAt m addrLo)

/-- The effective address of a memory mode by the formulas of 30_encoding.md R85 to R92, its pointers read from
the cells as memory stands. -/
def formulaAddress (m : MemMode) (s : State) : Word :=
  match m with
  | .zp b => b.setWidth 16
  | .zpx b => (b + s.x).setWidth 16
  | .zpy b => (b + s.y).setWidth 16
  | .abs w => w
  | .absx w => w + s.x.setWidth 16
  | .absy w => w + s.y.setWidth 16
  | .indx b => cellPair s.mem ((b + s.x).setWidth 16) ((b + s.x + 1).setWidth 16)
  | .indy b => cellPair s.mem (b.setWidth 16) ((b + 1).setWidth 16) + s.y.setWidth 16

/-- The base a page crossing is measured from (70_reset_and_hazards.md R294): the operand word, or the pointer's
value; the effective address itself where the mode has no index added to a word. -/
def formulaBase (m : MemMode) (s : State) : Word :=
  match m with
  | .absx w => w
  | .absy w => w
  | .indy b => cellPair s.mem (b.setWidth 16) ((b + 1).setWidth 16)
  | .zp _ | .zpx _ | .zpy _ | .abs _ | .indx _ => formulaAddress m s

/-- The pointer reads of a memory mode, newest first (20_memory.md R60). -/
def pointerReads (m : MemMode) (s : State) : List Event :=
  match m with
  | .indx b =>
    [.read ((b + s.x + 1).setWidth 16) (cellAt s.mem ((b + s.x + 1).setWidth 16)),
     .read ((b + s.x).setWidth 16) (cellAt s.mem ((b + s.x).setWidth 16))]
  | .indy b =>
    [.read ((b + 1).setWidth 16) (cellAt s.mem ((b + 1).setWidth 16)),
     .read (b.setWidth 16) (cellAt s.mem (b.setWidth 16))]
  | .zp _ | .zpx _ | .zpy _ | .abs _ | .absx _ | .absy _ => []

/-- Instructions executed one after the other, without fetch and poll; the first that gives no next state ends
it. -/
def execAll : List Instr → State → StepResult
  | [], s => .next s
  | i :: rest, s =>
    match exec i s with
    | .next t => execAll rest t
    | .fault f => .fault f
    | .refused r => .refused r

/-- The flags with Z and N of a result byte: "result == 0" and "result bit 7" (00_scope.md R12). -/
def flagsOfResult (f : Flags) (v : Byte) : Flags := { f with z := decide (v = 0), n := v.getLsbD 7 }

/-- The condition of each branch (46_branch.md R189); none for what is no branch. -/
def branchCondition (op : Op) (f : Flags) : Option Bool :=
  if op = .bpl then some (f.n == false) else if op = .bmi then some (f.n == true)
  else if op = .bvc then some (f.v == false) else if op = .bvs then some (f.v == true)
  else if op = .bcc then some (f.c == false) else if op = .bcs then some (f.c == true)
  else if op = .bne then some (f.z == false) else if op = .beq then some (f.z == true)
  else none

/-- The instructions whose PC after is not the next address (10_state.md R25). -/
def controlOps : List Op :=
  [.bcc, .bcs, .beq, .bne, .bpl, .bmi, .bvc, .bvs, .jmp, .jsr, .rts, .rti, .brk]

/-- The writers of C (10_state.md R26). -/
def carryWriters : List Op :=
  [.adc, .sbc, .asl, .lsr, .rol, .ror, .cmp, .cpx, .cpy, .clc, .sec, .plp, .rti]

/-- The writers of Z, and of N (10_state.md R26). -/
def zeroNegativeWriters : List Op :=
  [.adc, .sbc, .and, .ora, .eor, .bit, .asl, .lsr, .rol, .ror, .inc, .dec, .inx, .iny, .dex, .dey, .lda, .ldx, .ldy,
   .tax, .tay, .txa, .tya, .tsx, .pla, .cmp, .cpx, .cpy, .plp, .rti]

/-- The instructions that write I (10_state.md R26); interrupt entry and reset write it too. -/
def interruptDisableWriters : List Op := [.sei, .cli, .plp, .rti, .brk]

/-- The writers of D (10_state.md R26). -/
def decimalWriters : List Op := [.sed, .cld, .plp, .rti]

/-- The instructions that write V (10_state.md R26); the overflow pin writes it too. -/
def overflowWriters : List Op := [.adc, .sbc, .bit, .clv, .plp, .rti]

/-- The instructions that write A in every form; the shifts write it in Accumulator mode (10_state.md R20). -/
def accumulatorWriters : List Op := [.adc, .sbc, .and, .ora, .eor, .lda, .pla, .txa, .tya]

/-- The four shifts (43_shift.md). -/
def shiftOps : List Op := [.asl, .lsr, .rol, .ror]

/-- The writers of X (10_state.md R21). -/
def xWriters : List Op := [.ldx, .tax, .tsx, .inx, .dex]

/-- The writers of Y (10_state.md R22). -/
def yWriters : List Op := [.ldy, .tay, .iny, .dey]

/-- The instructions that write SP (10_state.md R23); interrupt entry and reset write it too. -/
def stackPointerWriters : List Op := [.txs, .pha, .php, .pla, .plp, .jsr, .rts, .brk, .rti]

/-- The instructions of the write and the read-modify-write kinds (30_encoding.md R95), in the forms that have a
memory mode, and those that push (20_memory.md R51). -/
def writesMemory (i : Instr) : Prop :=
  i.op ∈ [.sta, .stx, .sty, .inc, .dec, .pha, .php, .jsr, .brk] ∨ (i.op ∈ shiftOps ∧ i.operand ≠ .acc)

/-- So many bytes read one after the other from an address upwards (mod 65536), whatever the kinds of the
addresses: what the bytes of an instruction are read with (20_memory.md R60, items 1 and 2). -/
def readBytes (addr : Word) : Nat → State → Access (List Byte × State)
  | 0, s => pure ([], s)
  | k + 1, s => do
    let (b, s) ← memRead addr s
    let (rest, s) ← readBytes (addr + 1) k s
    pure (b :: rest, s)

/-- ADC or SBC in a state that decimal arithmetic refuses (42_arithmetic.md R142). -/
def decimalStop (i : Instr) (s : State) : Prop :=
  (i.op = .adc ∨ i.op = .sbc) ∧ s.platform.bcdEnabled = true ∧ s.flags.d = true

/-- `m` is the operand byte `M` of an instruction of the read kind: the immediate byte, or the byte read at the
effective address (00_scope.md R9, 30_encoding.md R84, R95). -/
def operandByte (i : Instr) (s : State) (m : Byte) : Prop :=
  i.operand = .src (.imm m) ∨
  ∃ (mode : MemMode) (e : Effective) (u : State), i.operand = .src (.mem mode) ∧ effective .read mode s = .ok e ∧
    memRead e.addr e.state = .ok (m, u)

/-- The opcode values without a meaning, as 30_encoding.md R101 lists them. -/
def undocumented (opcode : Byte) : Bool :=
  let low := opcode.toNat % 16
  (low == 0x2 && opcode != 0xA2) || low == 0x3 || low == 0x7 || low == 0xB || low == 0xF
    || [0x04, 0x0C, 0x14, 0x1A, 0x1C, 0x34, 0x3A, 0x3C, 0x44, 0x54, 0x5A, 0x5C, 0x64, 0x74, 0x7A, 0x7C, 0x80, 0x82,
        0x89, 0x9C, 0x9E, 0xC2, 0xD4, 0xDA, 0xDC, 0xE2, 0xF4, 0xFA, 0xFC].contains opcode.toNat

end Sys2Proof.Machine
end

