-- ==== Sys2Proof/Certificates/Slice0/Obligations.lean ====
section
/-! DEFINITION. The statements for the provers. Every statement holds for every state it quantifies over,
reachable or not, and for every platform its hypotheses admit. `s.withBus u` is `s` with the event history and
device bytes of `u`, so an equation `exec i s = .next …` over it says the whole frame. -/

open Sys2Proof Sys2Proof.Machine

/-- Tier 3, encoding. For every well-formed instruction of all ten families, with every operand value, decoding
its bytes gives it back and leaves the bytes after it (30_encoding.md R80, R84 to R94, R100). The order of the
operand bytes is general knowledge of the spec (D4, entry 10, PRESUMED); the offset of a branch as an integer is
the model's (entry 32, DESIGN CHOICE). -/
def Obligations.DecodeReadsBackEncode : Prop :=
  ∀ (i : Instr) (rest : List Byte), i.WellFormed → decode (encode i ++ rest) = .ok (i, rest)

/-- Tier 3, encoding. Bytes that decode are exactly the bytes of the instruction they decode to, followed by
what is left: no two byte sequences decode to one instruction, and no bit of an operand is dropped
(30_encoding.md R80, R104). The order of the operand bytes is general knowledge of the spec (D4, entry 10,
PRESUMED). -/
def Obligations.EncodeWritesBackDecode : Prop :=
  ∀ (bytes : List Byte) (i : Instr) (rest : List Byte),
    decode bytes = .ok (i, rest) → i.WellFormed ∧ bytes = encode i ++ rest

/-- Tier 1. The thirteen example encodings of the table in 30_encoding.md R106, one for each addressing mode,
decode to the instructions they stand for. The syntax of that table and the order of the operand bytes are
general knowledge of the spec (D4, entry 10, PRESUMED). -/
def Obligations.WordsOfTheSyntaxTableDecode : Prop :=
  decode [0x18] = .ok (.clc, []) ∧ decode [0x0A] = .ok (.aslAcc, []) ∧
  decode [0xA9, 0x10] = .ok (.ldaImm 0x10, []) ∧ decode [0xA5, 0x10] = .ok (.ldaZp 0x10, []) ∧
  decode [0xB5, 0x10] = .ok (.ldaZpx 0x10, []) ∧ decode [0xB6, 0x10] = .ok (.ldxZpy 0x10, []) ∧
  decode [0xAD, 0x34, 0x12] = .ok (.ldaAbs 0x1234, []) ∧ decode [0xBD, 0x34, 0x12] = .ok (.ldaAbsx 0x1234, []) ∧
  decode [0xB9, 0x34, 0x12] = .ok (.ldaAbsy 0x1234, []) ∧ decode [0xA1, 0x10] = .ok (.ldaIndx 0x10, []) ∧
  decode [0xB1, 0x10] = .ok (.ldaIndy 0x10, []) ∧ decode [0xD0, 0x0E] = .ok (.bne 14, []) ∧
  decode [0x6C, 0xFF, 0x03] = .ok (.jmpInd 0x03FF, [])

/-- Tier 2 (30_encoding.md R101). There are 105 opcode values without a meaning, and a step that fetches its
opcode from a cell is refused with UndocumentedOpcode exactly when that opcode is one of them; for an official
opcode it never is. That the model refuses them is the spec's own decision D3, not a statement of its source
(entry 22, DESIGN CHOICE). The hypotheses say that the step is an instruction (60_exceptions.md R240) whose
opcode lies in a memory cell. -/
def Obligations.UndocumentedOpcodesAreRefused : Prop :=
  ((List.range 256).filter (fun n => undocumented (BitVec.ofNat 8 n))).length = 105 ∧
  ∀ s : State, resetNext s = false → s.intLatch = none → holdsCell s.platform s.pc →
    (undocumented (cellAt s.mem s.pc) = true →
      step s = .refused (.undocumentedOpcode (cellAt s.mem s.pc) s.pc)) ∧
    (undocumented (cellAt s.mem s.pc) = false →
      ∀ (opcode : Byte) (pc0 : Word), step s ≠ .refused (.undocumentedOpcode opcode pc0))

/-- Tier 1. Where the bytes at PC decode to instruction i and lie in memory cells, no reset is next and nothing
is latched, the step is exec of i, at the state with the overflow pin applied and the fetch of exactly i.length
bytes recorded, followed by finishInstr (the poll, and taking the input), which PollAfterInstruction and
StepKeepsParameters speak of (60_exceptions.md R240, 20_memory.md R60). Not said by R240 or R60 alone: that the
pin acts before the fetch is the spec's decision D2 (entry 21, DESIGN CHOICE); that all bytes are fetched before
exec acts is read from R60 (entry 27, DEDUCED), and that JSR, too, reads its third byte before it pushes is D19
(entry 18, DESIGN CHOICE, unsafe where that byte is a stack cell it writes). Instruction bytes on a device are
StepRunsFetchedInstruction. -/
def Obligations.StepRunsDecodedInstruction : Prop :=
  ∀ (s : State) (i : Instr) (rest : List Byte),
    resetNext s = false → s.intLatch = none →
    (∀ k, k < i.length → holdsCell s.platform (s.pc + BitVec.ofNat 16 k)) →
    decode [cellAt s.mem s.pc, cellAt s.mem (s.pc + 1), cellAt s.mem (s.pc + 2)] = .ok (i, rest) →
    let fetched : List Event := [.read s.pc (cellAt s.mem s.pc), .read (s.pc + 1) (cellAt s.mem (s.pc + 1)),
      .read (s.pc + 2) (cellAt s.mem (s.pc + 2))]
    let s0 : State := { overflowPin s with trace := (fetched.take i.length).reverse ++ s.trace }
    step s = match exec i s0 with
      | .next t => .next (finishInstr i.op s0.flags.i t)
      | .fault f => .fault f
      | .refused r => .refused r

/-- Tier 2 (60_exceptions.md R246). The poll of every instruction, at the level of a whole step: CLI, SEI and
PLP poll with I as it was before them, every other instruction but BRK with I as it is after it (RTI with the
pulled I), and BRK makes no poll and latches nothing. NMI goes before IRQ; an NMI edge is held in nmiPending.
The spec marks three of these clauses as its own decision or general knowledge, and the log marks them PRESUMED:
the edge that is held (D11, entry 12), NMI before IRQ (D14, entry 15), no poll after BRK (D25, entry 19). -/
def Obligations.PollAfterInstruction : Prop :=
  ∀ (s t : State) (i : Instr) (rest : List Byte),
    resetNext s = false → s.intLatch = none →
    (∀ k, k < i.length → holdsCell s.platform (s.pc + BitVec.ofNat 16 k)) →
    decode [cellAt s.mem s.pc, cellAt s.mem (s.pc + 1), cellAt s.mem (s.pc + 2)] = .ok (i, rest) →
    step s = .next t →
    let iPoll := if i.op = .cli ∨ i.op = .sei ∨ i.op = .plp then s.flags.i else t.flags.i
    let pending := s.nmiPending || (currentEnv s).nmiEdge
    (i.op = .brk → t.intLatch = none) ∧
    (i.op ≠ .brk → t.nmiPending = pending ∧
      t.intLatch = if pending = true then some .nmi
        else if (currentEnv s).irq = true ∧ iPoll = false then some .irq else none)

/-- Tier 2 (60_exceptions.md R250). A step with a latched interrupt runs the interrupt sequence in place of an
instruction: it pushes PC high, PC low and the flags byte with B = 0 (the flags as they are before I changes),
sets I and no other flag, clears the pending NMI if it is the one serviced, holds an edge that arrives
meanwhile, goes to the address in the vector, and latches nothing. `s0` is the state with the overflow pin
applied. Clauses the spec decides itself: the NMI vector (D5, entry 11, PRESUMED), bit 5 pushed as 1 (D12, entry
13, PRESUMED), D unchanged (D13, entry 14, DEDUCED), no poll (D25, entry 19, PRESUMED), the edge that is held
(D18, U6, entry 33, DESIGN CHOICE); that a step takes an entry of a list is the model's (entry 1). The
hypotheses say that the stack cells and the vector are mapped and that the chip's extra read at PC is no
device's (D8, entry 24). The cycle count is left open (general knowledge, entry 9). -/
def Obligations.InterruptSequence : Prop :=
  ∀ (s u1 u2 : State) (kind : Interrupt) (lo hi : Byte),
    resetNext s = false → s.intLatch = some kind → s.mem.wf = true →
    let s0 := overflowPin s
    let a0 := stackAddr s.sp
    let a1 := stackAddr (s.sp - 1)
    let a2 := stackAddr (s.sp - 2)
    let m3 := cellStore s.platform (cellStore s.platform (cellStore s.platform s.mem a0 (hi8 s.pc)) a1 (lo8 s.pc))
      a2 (packP false s0.flags)
    let v : Word := match kind with
      | .irq => 0xFFFE
      | .nmi => s.platform.nmiVector
    kindAt s.platform s.pc ≠ .device → kindAt s.platform a0 ≠ .unmapped → kindAt s.platform a1 ≠ .unmapped →
    kindAt s.platform a2 ≠ .unmapped →
    memRead v { s with
      mem := m3,
      trace := .write a2 (packP false s0.flags) :: .write a1 (lo8 s.pc) :: .write a0 (hi8 s.pc) :: s.trace }
      = .ok (lo, u1) →
    memRead (v + 1) u1 = .ok (hi, u2) →
    (∃ n : Nat, step s = .next { s.withBus u2 with
      sp := s.sp - 3, mem := m3, flags := { s0.flags with i := true }, pc := wordOf hi lo, intLatch := none,
      nmiPending := (match kind with
        | .irq => s.nmiPending || (currentEnv s).nmiEdge
        | .nmi => (currentEnv s).nmiEdge),
      inputs := s.inputs.tail, steps := s.steps + 1, cycles := n }) ∧
    (∀ addr : Word, addr ≠ a0 → addr ≠ a1 → addr ≠ a2 → cellAt m3 addr = cellAt s.mem addr) ∧
    (kindAt s.platform a0 = .ram → cellAt m3 a0 = hi8 s.pc) ∧
    (kindAt s.platform a1 = .ram → cellAt m3 a1 = lo8 s.pc) ∧
    (kindAt s.platform a2 = .ram → cellAt m3 a2 = packP false s0.flags)

/-- Tier 2 (70_reset_and_hazards.md R280). A reset applied in any state, whatever is latched or pending: A, X,
Y, SP, C, Z, D, V, N are the draws, I = 1, nothing is pending or latched, PC is the word at RESET_VECTOR, memory
is not written. The rule is wholly the spec's decisions D5 and D6 (the vector: entry 11, PRESUMED). That reset
is an input with its draws, which takes the step and is counted as one, is the model's choice (entry 7, DESIGN
CHOICE; entry 1). The hypotheses say that the two vector bytes can be read. The cycle count is left open
(general knowledge, entry 9). -/
def Obligations.ResetTransition : Prop :=
  ∀ (s u1 u2 : State) (d : ResetDraw) (lo hi : Byte), nextInput s = .reset d →
    memRead s.platform.resetVector s = .ok (lo, u1) → memRead (s.platform.resetVector + 1) u1 = .ok (hi, u2) →
    ∃ n : Nat, step s = .next { s.withBus u2 with
      a := d.a, x := d.x, y := d.y, sp := d.sp, pc := wordOf hi lo,
      flags := { n := d.n, v := d.v, d := d.d, i := true, z := d.z, c := d.c },
      nmiPending := false, intLatch := none, inputs := s.inputs.tail, steps := s.steps + 1, cycles := n }

/-- Tier 1 (10_state.md R31). What a step that is no reset does is what the step with no pin input does from the
state with V set, when SO_PIN is true and the pin fired; otherwise the pin input changes nothing. That the pin
acts at the start of a step is the spec's decision D2 (entry 21, DESIGN CHOICE); the source gives no timing. -/
def Obligations.OverflowPinSetsV : Prop :=
  ∀ (s : State) (e : Env), nextInput s = .env e →
    overflowPin s =
      (if s.platform.soPin = true ∧ e.so = true then { s with flags := { s.flags with v := true } } else s) ∧
    (s.intLatch = none → step s = stepInstr (overflowPin s)) ∧
    (∀ kind, s.intLatch = some kind → step s = stepInterrupt kind (overflowPin s))

/-- Tier 1 (20_memory.md R54). A read of ram or rom returns the cell and changes no state but the event history;
a device read returns the next byte the environment has listed, or the free value; an unmapped address is
refused. That the environment's bytes are a list with a free value after it, and the counter of device reads,
are the model's (entry 2, DESIGN CHOICE); so is the history (entry 8); the refusal is the spec's decision D7
(entry 25, DESIGN CHOICE). -/
def Obligations.MemReadByKind : Prop :=
  ∀ (s : State) (addr : Word),
    (holdsCell s.platform addr → memRead addr s =
      .ok (cellAt s.mem addr, { s with trace := .read addr (cellAt s.mem addr) :: s.trace })) ∧
    (kindAt s.platform addr = .device → ∀ b bs, s.deviceIn = b :: bs → memRead addr s =
      .ok (b, { s with trace := .read addr b :: s.trace, deviceIn := bs, deviceReads := s.deviceReads + 1 })) ∧
    (kindAt s.platform addr = .device → s.deviceIn = [] → ∃ b : Byte, memRead addr s =
      .ok (b, { s with trace := .read addr b :: s.trace, deviceReads := s.deviceReads + 1 })) ∧
    (kindAt s.platform addr = .unmapped → memRead addr s = .error (.platformAccess addr))

/-- Tier 2 (20_memory.md R55). After a write to ram the cell holds the byte and no other cell changes; on rom
and device no cell changes and the write is recorded; an unmapped address is refused. What rom, device and
unmapped do is the spec's decision D7 (entry 25, DESIGN CHOICE); the canonical form of memory, premise and
conclusion here, is the model's (entry 5, DESIGN CHOICE), and every step keeps it (MemoryStaysCanonical); so is
the history (entry 8). That the cell of a device address stays is the model's choice (entry 25). -/
def Obligations.MemWriteByKind : Prop :=
  ∀ (s : State) (addr : Word) (v : Byte), s.mem.wf = true →
    (kindAt s.platform addr = .ram → ∃ m : Memory,
      memWrite addr v s = .ok { s with mem := m, trace := .write addr v :: s.trace } ∧ m.wf = true ∧
      cellAt m addr = v ∧ ∀ other : Word, other ≠ addr → cellAt m other = cellAt s.mem other) ∧
    (kindAt s.platform addr = .rom ∨ kindAt s.platform addr = .device →
      memWrite addr v s = .ok { s with trace := .write addr v :: s.trace }) ∧
    (kindAt s.platform addr = .unmapped → memWrite addr v s = .error (.platformAccess addr))

/-- Tier 2. What the eight memory modes compute, with their wraps, their pointer reads in order, and page
crossing (30_encoding.md R85 to R92, 20_memory.md R60, R61), for each access kind, where every address holds a
cell. All of it is general knowledge of the spec, its decision D4 (entry 10, PRESUMED, unsafe). -/
def Obligations.EffectiveAddresses : Prop :=
  ∀ (s : State) (kind : AccessKind) (m : MemMode), (∀ addr : Word, holdsCell s.platform addr) →
    effective kind m s = .ok
      { addr := formulaAddress m s,
        crossed := decide (hi8 (formulaAddress m s) ≠ hi8 (formulaBase m s)),
        state := { s with trace := pointerReads m s ++ s.trace } }

/-- Tier 2. An instruction or an interrupt sequence one of whose discarded reads falls on a device address is
refused with PlatformAccess (20_memory.md R60, 92_eei_decisions.md D8, 93_implementation_defined.md U9), row by
row of the table of U9: the one-byte instructions at the byte after the opcode; JSR, PLA, PLP, RTS and RTI at
the stack; RTS at the pulled address; the interrupt sequence at PC; every instruction in a zero-page indexed
mode at the unindexed address; every instruction in an indexed mode at the address without the carry, always if
it writes memory, else if a page is crossed; a taken branch at the next instruction, and across a page at the
target without the carry. The clauses about `effective` and `indexed` say the same of the shared operand forms.
The refusal is the spec's decision D8; that each check stands where the read would happen, and that JSR is
refused for `$0100 + SP` alone, are the model's choices (entries 24 and 36, DESIGN CHOICE). -/
def Obligations.ExtraReadsOnDevicesAreRefused : Prop :=
  (∀ (i : Instr) (s : State), i.length = 1 → kindAt s.platform (s.pc + 1) = .device →
    exec i s = .refused (.platformAccess (s.pc + 1))) ∧
  (∀ (w : Word) (s : State), kindAt s.platform (stackAddr s.sp) = .device →
    exec (.jsr w) s = .refused (.platformAccess (stackAddr s.sp))) ∧
  (∀ (i : Instr) (s : State), i.op = .pla ∨ i.op = .plp ∨ i.op = .rts ∨ i.op = .rti →
    kindAt s.platform (s.pc + 1) ≠ .device → kindAt s.platform (stackAddr s.sp) = .device →
    exec i s = .refused (.platformAccess (stackAddr s.sp))) ∧
  (∀ (s u1 u2 : State) (lo hi : Byte),
    kindAt s.platform (s.pc + 1) ≠ .device → kindAt s.platform (stackAddr s.sp) ≠ .device →
    memRead (stackAddr (s.sp + 1)) s = .ok (lo, u1) → memRead (stackAddr (s.sp + 2)) u1 = .ok (hi, u2) →
    kindAt s.platform (wordOf hi lo) = .device → exec .rts s = .refused (.platformAccess (wordOf hi lo))) ∧
  (∀ (s : State) (kind : Interrupt), resetNext s = false → s.intLatch = some kind →
    kindAt s.platform s.pc = .device → step s = .refused (.platformAccess s.pc)) ∧
  (∀ (i : Instr) (s : State) (b : Byte), ¬ decimalStop i s →
    i.operand = .src (.mem (.zpx b)) ∨ i.operand = .src (.mem (.zpy b)) ∨ i.operand = .src (.mem (.indx b)) →
    kindAt s.platform (b.setWidth 16) = .device → exec i s = .refused (.platformAccess (b.setWidth 16))) ∧
  (∀ (i : Instr) (s : State) (base : Word) (index : Byte), ¬ decimalStop i s →
    (i.operand = .src (.mem (.absx base)) ∧ index = s.x) ∨ (i.operand = .src (.mem (.absy base)) ∧ index = s.y) →
    let addr := base + index.setWidth 16
    let uncarried := wordOf (hi8 base) (lo8 addr)
    kindAt s.platform uncarried = .device → writesMemory i ∨ hi8 addr ≠ hi8 base →
    exec i s = .refused (.platformAccess uncarried)) ∧
  (∀ (i : Instr) (s u1 u2 : State) (b lo hi : Byte), ¬ decimalStop i s → i.operand = .src (.mem (.indy b)) →
    memRead (b.setWidth 16) s = .ok (lo, u1) → memRead ((b + 1).setWidth 16) u1 = .ok (hi, u2) →
    let base := wordOf hi lo
    let addr := base + s.y.setWidth 16
    let uncarried := wordOf (hi8 base) (lo8 addr)
    kindAt s.platform uncarried = .device → writesMemory i ∨ hi8 addr ≠ hi8 base →
    exec i s = .refused (.platformAccess uncarried)) ∧
  (∀ (i : Instr) (offset : Int) (s : State), i.operand = .rel offset → branchCondition i.op s.flags = some true →
    let next : Word := s.pc + 2
    let target : Word := s.pc + 2 + BitVec.ofInt 16 offset
    let uncarried : Word := wordOf (hi8 next) (lo8 target)
    (kindAt s.platform next = .device → exec i s = .refused (.platformAccess next)) ∧
    (kindAt s.platform next ≠ .device → hi8 next ≠ hi8 target → kindAt s.platform uncarried = .device →
      exec i s = .refused (.platformAccess uncarried))) ∧
  (∀ (s : State) (kind : AccessKind) (b : Byte), kindAt s.platform (b.setWidth 16) = .device →
    effective kind (.zpx b) s = .error (.platformAccess (b.setWidth 16)) ∧
    effective kind (.zpy b) s = .error (.platformAccess (b.setWidth 16)) ∧
    effective kind (.indx b) s = .error (.platformAccess (b.setWidth 16))) ∧
  (∀ (s : State) (kind : AccessKind) (base : Word) (index : Byte),
    let addr := base + index.setWidth 16
    let uncarried := wordOf (hi8 base) (lo8 addr)
    kindAt s.platform uncarried = .device → (kind = .read → hi8 addr ≠ hi8 base) →
    indexed kind base index s = .error (.platformAccess uncarried))

/-- Tier 1 (70_reset_and_hazards.md R295). The cycle counts of the read, write and read-modify-write kinds by
mode, which the instruction statements add to the ghost counter; the counts of the other instructions stand in
their statements. The counter is the model's own field (entry 9); that a page crossing of (Indirect),Y is
measured from the pointer is general knowledge of the spec (R294). -/
def Obligations.CycleTable : Prop :=
  (∀ (b : Byte) (w : Word) (p : Bool), [MemMode.zp b, .zpx b, .zpy b, .abs w, .absx w, .absy w, .indx b, .indy b].map
      (readCycles p) = [3, 4, 4, 4, if p then 5 else 4, if p then 5 else 4, 6, if p then 6 else 5]) ∧
  (∀ (b : Byte) (w : Word), [MemMode.zp b, .zpx b, .zpy b, .abs w, .absx w, .absy w, .indx b, .indy b].map
      writeCycles = [3, 4, 4, 4, 5, 5, 6, 6]) ∧
  (∀ (b : Byte) (w : Word), [MemMode.zp b, .zpx b, .abs w, .absx w].map rmwCycles = [5, 6, 6, 7])

/-- Tier 1 (10_state.md R30). The flags byte is NV1BDIZC, high to low; loading it ignores bits 5 and 4. That bit
5 is 1 in the byte with B = 0, which only IRQ and NMI push, is general knowledge of the spec (D12, entry 13,
PRESUMED). -/
def Obligations.FlagsByteLayout : Prop :=
  (∀ (f : Flags) (b : Bool),
    [7, 6, 5, 4, 3, 2, 1, 0].map (packP b f).getLsbD = [f.n, f.v, true, b, f.d, f.i, f.z, f.c]) ∧
  (∀ v : Byte, unpackP v =
    { n := v.getLsbD 7, v := v.getLsbD 6, d := v.getLsbD 3, i := v.getLsbD 2, z := v.getLsbD 1, c := v.getLsbD 0 }) ∧
  (∀ (f : Flags) (b : Bool), unpackP (packP b f) = f) ∧
  (∀ (v : Byte) (b : Bool), packP b (unpackP v) = (v &&& 0xCF) ||| (if b then 0x30 else 0x20))

/-- Tier 2, stated (40_access.md R120, R121, R122). LDA, LDX and LDY in all 18 forms: their encodings, and the
next state: the register holds the operand byte, Z and N are from it, every other flag and register is unchanged
and no cell changes. For a memory form the hypotheses are that its address resolves and its byte is readable. -/
def Obligations.LoadInstructions : Prop :=
  (∀ (b : Byte) (w : Word),
    [Instr.ldaImm b, .ldaZp b, .ldaZpx b, .ldaAbs w, .ldaAbsx w, .ldaAbsy w, .ldaIndx b, .ldaIndy b, .ldxImm b,
      .ldxZp b, .ldxZpy b, .ldxAbs w, .ldxAbsy w, .ldyImm b, .ldyZp b, .ldyZpx b, .ldyAbs w, .ldyAbsx w].map
      encode =
    [[0xA9, b], [0xA5, b], [0xB5, b], [0xAD, lo8 w, hi8 w], [0xBD, lo8 w, hi8 w], [0xB9, lo8 w, hi8 w],
      [0xA1, b], [0xB1, b], [0xA2, b], [0xA6, b], [0xB6, b], [0xAE, lo8 w, hi8 w], [0xBE, lo8 w, hi8 w],
      [0xA0, b], [0xA4, b], [0xB4, b], [0xAC, lo8 w, hi8 w], [0xBC, lo8 w, hi8 w]]) ∧
  (∀ (b : Byte) (s : State),
    let t : State := { s with flags := flagsOfResult s.flags b, pc := s.pc + 2, cycles := s.cycles + 2 }
    exec (.ldaImm b) s = .next { t with a := b } ∧ exec (.ldxImm b) s = .next { t with x := b } ∧
    exec (.ldyImm b) s = .next { t with y := b }) ∧
  (∀ (i : Instr) (m : MemMode) (s u : State) (e : Effective) (v : Byte),
    i.operand = .src (.mem m) → effective .read m s = .ok e → memRead e.addr e.state = .ok (v, u) →
    let t : State := { s.withBus u with
      flags := flagsOfResult s.flags v, pc := s.pc + BitVec.ofNat 16 i.length,
      cycles := s.cycles + readCycles e.crossed m }
    (i.op = .lda → exec i s = .next { t with a := v }) ∧ (i.op = .ldx → exec i s = .next { t with x := v }) ∧
    (i.op = .ldy → exec i s = .next { t with y := v }))

/-- Tier 2, stated (40_access.md R123, R124, R125). STA, STX and STY in all 13 forms: their encodings, and the
next state: the register's byte is written at the effective address the meaning computes, which is not read; no
flag and no register changes; every other cell is as before. Writing to rom or a device changes no cell. -/
def Obligations.StoreInstructions : Prop :=
  (∀ (b : Byte) (w : Word),
    [Instr.staZp b, .staZpx b, .staAbs w, .staAbsx w, .staAbsy w, .staIndx b, .staIndy b, .stxZp b, .stxZpy b,
      .stxAbs w, .styZp b, .styZpx b, .styAbs w].map encode =
    [[0x85, b], [0x95, b], [0x8D, lo8 w, hi8 w], [0x9D, lo8 w, hi8 w], [0x99, lo8 w, hi8 w], [0x81, b],
      [0x91, b], [0x86, b], [0x96, b], [0x8E, lo8 w, hi8 w], [0x84, b], [0x94, b], [0x8C, lo8 w, hi8 w]]) ∧
  (∀ (i : Instr) (m : MemMode) (s : State) (e : Effective) (v : Byte),
    i.operand = .src (.mem m) → (i.op = .sta ∧ v = s.a) ∨ (i.op = .stx ∧ v = s.x) ∨ (i.op = .sty ∧ v = s.y) →
    s.mem.wf = true → effective .write m s = .ok e → kindAt s.platform e.addr ≠ .unmapped →
    ∃ cells : Memory, exec i s = .next { s.withBus e.state with
        mem := cells, trace := .write e.addr v :: e.state.trace, pc := s.pc + BitVec.ofNat 16 i.length,
        cycles := s.cycles + writeCycles m } ∧
      (∀ addr : Word, addr ≠ e.addr → cellAt cells addr = cellAt s.mem addr) ∧
      (kindAt s.platform e.addr = .ram → cellAt cells e.addr = v) ∧
      (kindAt s.platform e.addr ≠ .ram → cells = s.mem))

/-- Tier 2, stated (41_transfer.md R130 to R133, 48_stack.md R216, R217). The six transfers, with their
encodings and whole next states; TXS writes no flag. They complete exactly where the discarded read of the next
byte is no device's (D8). -/
def Obligations.TransferInstructions : Prop :=
  (
    [Instr.tax, .txa, .tay, .tya, .txs, .tsx].map encode =
    [[0xAA], [0x8A], [0xA8], [0x98], [0x9A], [0xBA]]) ∧
  (∀ s : State, kindAt s.platform (s.pc + 1) ≠ .device →
    let t : State := { s with pc := s.pc + 1, cycles := s.cycles + 2 }
    exec .tax s = .next { t with x := s.a, flags := flagsOfResult s.flags s.a } ∧
    exec .txa s = .next { t with a := s.x, flags := flagsOfResult s.flags s.x } ∧
    exec .tay s = .next { t with y := s.a, flags := flagsOfResult s.flags s.a } ∧
    exec .tya s = .next { t with a := s.y, flags := flagsOfResult s.flags s.y } ∧
    exec .tsx s = .next { t with x := s.sp, flags := flagsOfResult s.flags s.sp } ∧
    exec .txs s = .next { t with sp := s.x })

/-- Tier 2, stated (42_arithmetic.md R140). ADC in all 8 forms, binary (R142 says when): the sum with the carry,
its four flags by the rule's formulas, everything else unchanged. -/
def Obligations.AddWithCarry : Prop :=
  (∀ (b : Byte) (w : Word),
    [Instr.adcImm b, .adcZp b, .adcZpx b, .adcAbs w, .adcAbsx w, .adcAbsy w, .adcIndx b, .adcIndy b].map encode
      =
    [[0x69, b], [0x65, b], [0x75, b], [0x6D, lo8 w, hi8 w], [0x7D, lo8 w, hi8 w], [0x79, lo8 w, hi8 w],
      [0x61, b], [0x71, b]]) ∧
  (∀ (s : State) (m : Byte), ¬ (s.platform.bcdEnabled = true ∧ s.flags.d = true) →
    let r : Nat := s.a.toNat + m.toNat + (if s.flags.c then 1 else 0)
    let r8 : Byte := BitVec.ofNat 8 r
    let f : Flags := { s.flags with
      c := decide (r > 0xFF), v := decide (((r8 ^^^ s.a) &&& (r8 ^^^ m) &&& 0x80) ≠ 0), z := decide (r8 = 0),
      n := r8.getLsbD 7 }
    exec (.adcImm m) s = .next { s with a := r8, flags := f, pc := s.pc + 2, cycles := s.cycles + 2 } ∧
    ∀ (i : Instr) (mode : MemMode) (e : Effective) (u : State),
      i.op = .adc → i.operand = .src (.mem mode) → effective .read mode s = .ok e →
      memRead e.addr e.state = .ok (m, u) →
      exec i s = .next { s.withBus u with
        a := r8, flags := f, pc := s.pc + BitVec.ofNat 16 i.length,
        cycles := s.cycles + readCycles e.crossed mode })

/-- Tier 2, stated (42_arithmetic.md R141). SBC in all 8 forms, binary: A + ~M + C, its four flags, everything
else unchanged, and C says that no borrow occurred. -/
def Obligations.SubtractWithCarry : Prop :=
  (∀ (b : Byte) (w : Word),
    [Instr.sbcImm b, .sbcZp b, .sbcZpx b, .sbcAbs w, .sbcAbsx w, .sbcAbsy w, .sbcIndx b, .sbcIndy b].map encode
      =
    [[0xE9, b], [0xE5, b], [0xF5, b], [0xED, lo8 w, hi8 w], [0xFD, lo8 w, hi8 w], [0xF9, lo8 w, hi8 w],
      [0xE1, b], [0xF1, b]]) ∧
  (∀ (s : State) (m : Byte), ¬ (s.platform.bcdEnabled = true ∧ s.flags.d = true) →
    let r : Nat := s.a.toNat + (m ^^^ 0xFF).toNat + (if s.flags.c then 1 else 0)
    let r8 : Byte := BitVec.ofNat 8 r
    let f : Flags := { s.flags with
      c := decide (m.toNat + (if s.flags.c then 0 else 1) ≤ s.a.toNat),
      v := decide (((r8 ^^^ s.a) &&& (r8 ^^^ (m ^^^ 0xFF)) &&& 0x80) ≠ 0), z := decide (r8 = 0), n := r8.getLsbD 7 }
    exec (.sbcImm m) s = .next { s with a := r8, flags := f, pc := s.pc + 2, cycles := s.cycles + 2 } ∧
    (∀ (i : Instr) (mode : MemMode) (e : Effective) (u : State),
      i.op = .sbc → i.operand = .src (.mem mode) → effective .read mode s = .ok e →
      memRead e.addr e.state = .ok (m, u) →
      exec i s = .next { s.withBus u with
        a := r8, flags := f, pc := s.pc + BitVec.ofNat 16 i.length,
        cycles := s.cycles + readCycles e.crossed mode }) ∧
    exec (.sbcImm m) s = exec (.adcImm (m ^^^ 0xFF)) s)

/-- Tier 2 (42_arithmetic.md R142). With BCD_ENABLED true and D = 1 every form of ADC and SBC, and no other
instruction, is refused with DecimalArithmetic; in every other configuration no instruction is. The refusal is
the spec's decision D1; that it comes before any refusal for the operand's address is the model's choice (entry
23, DESIGN CHOICE), which the first clause contains for operands at unmapped or device addresses. -/
def Obligations.DecimalArithmeticIsRefused : Prop :=
  (∀ (i : Instr) (s : State), i.op = .adc ∨ i.op = .sbc → s.platform.bcdEnabled = true → s.flags.d = true →
    exec i s = .refused (.decimalArithmetic s.pc)) ∧
  (∀ (i : Instr) (s : State) (pc0 : Word), exec i s = .refused (.decimalArithmetic pc0) →
    (i.op = .adc ∨ i.op = .sbc) ∧ s.platform.bcdEnabled = true ∧ s.flags.d = true ∧ pc0 = s.pc)

/-- Tier 2, stated (42_arithmetic.md R143, R144). INC and DEC in all 8 forms: the byte read is written back
first, then the byte plus or minus 1 mod 256; Z and N from it, C and V untouched; every other cell as before. -/
def Obligations.IncrementDecrementMemory : Prop :=
  (∀ (b : Byte) (w : Word),
    [Instr.incZp b, .incZpx b, .incAbs w, .incAbsx w, .decZp b, .decZpx b, .decAbs w, .decAbsx w].map encode =
    [[0xE6, b], [0xF6, b], [0xEE, lo8 w, hi8 w], [0xFE, lo8 w, hi8 w], [0xC6, b], [0xD6, b],
      [0xCE, lo8 w, hi8 w], [0xDE, lo8 w, hi8 w]]) ∧
  (∀ (i : Instr) (m : MemMode) (s u : State) (e : Effective) (v r8 : Byte),
    i.operand = .src (.mem m) → (i.op = .inc ∧ r8 = v + 1) ∨ (i.op = .dec ∧ r8 = v - 1) → s.mem.wf = true →
    effective .rmw m s = .ok e → memRead e.addr e.state = .ok (v, u) →
    let f := flagsOfResult s.flags r8
    let t : State := { s.withBus u with
      mem := cellStore s.platform (cellStore s.platform s.mem e.addr v) e.addr r8,
      trace := .write e.addr r8 :: .write e.addr v :: u.trace,
      flags := f, pc := s.pc + BitVec.ofNat 16 i.length, cycles := s.cycles + rmwCycles m }
    exec i s = .next t ∧ (∀ addr : Word, addr ≠ e.addr → cellAt t.mem addr = cellAt s.mem addr) ∧
    (kindAt s.platform e.addr = .ram → cellAt t.mem e.addr = r8))

/-- Tier 2, stated (42_arithmetic.md R145 to R148). INX, DEX, INY, DEY: plus or minus 1 mod 256, Z and N from
the result, C and V untouched. -/
def Obligations.IncrementDecrementIndex : Prop :=
  (
    [Instr.inx, .dex, .iny, .dey].map encode =
    [[0xE8], [0xCA], [0xC8], [0x88]]) ∧
  (∀ s : State, kindAt s.platform (s.pc + 1) ≠ .device →
    let t : State := { s with pc := s.pc + 1, cycles := s.cycles + 2 }
    exec .inx s = .next { t with x := s.x + 1, flags := flagsOfResult s.flags (s.x + 1) } ∧
    exec .dex s = .next { t with x := s.x - 1, flags := flagsOfResult s.flags (s.x - 1) } ∧
    exec .iny s = .next { t with y := s.y + 1, flags := flagsOfResult s.flags (s.y + 1) } ∧
    exec .dey s = .next { t with y := s.y - 1, flags := flagsOfResult s.flags (s.y - 1) })

/-- Tier 2, stated (43_shift.md R155 to R159). ASL, LSR, ROL and ROR in all 20 forms: the shifted byte, C the
bit that leaves, Z and N from the result (N = 0 for LSR, the old C for ROR); on A with no memory access, on
memory with the double write. -/
def Obligations.ShiftInstructions : Prop :=
  (∀ (b : Byte) (w : Word),
    [Instr.aslAcc, .aslZp b, .aslZpx b, .aslAbs w, .aslAbsx w, .lsrAcc, .lsrZp b, .lsrZpx b, .lsrAbs w,
      .lsrAbsx w, .rolAcc, .rolZp b, .rolZpx b, .rolAbs w, .rolAbsx w, .rorAcc, .rorZp b, .rorZpx b, .rorAbs w,
      .rorAbsx w].map encode =
    [[0x0A], [0x06, b], [0x16, b], [0x0E, lo8 w, hi8 w], [0x1E, lo8 w, hi8 w], [0x4A], [0x46, b], [0x56, b],
      [0x4E, lo8 w, hi8 w], [0x5E, lo8 w, hi8 w], [0x2A], [0x26, b], [0x36, b], [0x2E, lo8 w, hi8 w],
      [0x3E, lo8 w, hi8 w], [0x6A], [0x66, b], [0x76, b], [0x6E, lo8 w, hi8 w], [0x7E, lo8 w, hi8 w]]) ∧
  (∀ (i : Instr) (s : State) (v r8 : Byte) (c : Bool),
    (i.op = .asl ∧ r8 = v <<< 1 ∧ c = v.getLsbD 7) ∨
    (i.op = .lsr ∧ r8 = v >>> 1 ∧ c = v.getLsbD 0) ∨
    (i.op = .rol ∧ r8 = (v <<< 1 ||| (if s.flags.c then 0x01 else 0x00)) ∧ c = v.getLsbD 7) ∨
    (i.op = .ror ∧ r8 = (v >>> 1 ||| (if s.flags.c then 0x80 else 0x00)) ∧ c = v.getLsbD 0) →
    let f := flagsOfResult { s.flags with c := c } r8
    (i.op = .lsr → f.n = false) ∧ (i.op = .ror → f.n = s.flags.c) ∧
    (i.operand = .acc → v = s.a → kindAt s.platform (s.pc + 1) ≠ .device →
      exec i s = .next { s with a := r8, flags := f, pc := s.pc + 1, cycles := s.cycles + 2 }) ∧
    (∀ (m : MemMode) (e : Effective) (u : State), i.operand = .src (.mem m) → s.mem.wf = true →
      effective .rmw m s = .ok e → memRead e.addr e.state = .ok (v, u) →
      let t : State := { s.withBus u with
        mem := cellStore s.platform (cellStore s.platform s.mem e.addr v) e.addr r8,
        trace := .write e.addr r8 :: .write e.addr v :: u.trace,
        flags := f, pc := s.pc + BitVec.ofNat 16 i.length, cycles := s.cycles + rmwCycles m }
      exec i s = .next t ∧ (∀ addr : Word, addr ≠ e.addr → cellAt t.mem addr = cellAt s.mem addr) ∧
      (kindAt s.platform e.addr = .ram → cellAt t.mem e.addr = r8)))

/-- Tier 2, stated (44_bitwise.md R165, R166, R167). AND, ORA and EOR in all 24 forms: the bitwise result in A,
Z and N from it, all else unchanged. -/
def Obligations.BitwiseInstructions : Prop :=
  (∀ (b : Byte) (w : Word),
    [Instr.andImm b, .andZp b, .andZpx b, .andAbs w, .andAbsx w, .andAbsy w, .andIndx b, .andIndy b, .oraImm b,
      .oraZp b, .oraZpx b, .oraAbs w, .oraAbsx w, .oraAbsy w, .oraIndx b, .oraIndy b, .eorImm b, .eorZp b,
      .eorZpx b, .eorAbs w, .eorAbsx w, .eorAbsy w, .eorIndx b, .eorIndy b].map encode =
    [[0x29, b], [0x25, b], [0x35, b], [0x2D, lo8 w, hi8 w], [0x3D, lo8 w, hi8 w], [0x39, lo8 w, hi8 w],
      [0x21, b], [0x31, b], [0x09, b], [0x05, b], [0x15, b], [0x0D, lo8 w, hi8 w], [0x1D, lo8 w, hi8 w],
      [0x19, lo8 w, hi8 w], [0x01, b], [0x11, b], [0x49, b], [0x45, b], [0x55, b], [0x4D, lo8 w, hi8 w],
      [0x5D, lo8 w, hi8 w], [0x59, lo8 w, hi8 w], [0x41, b], [0x51, b]]) ∧
  (∀ (i : Instr) (s : State) (m r8 : Byte),
    (i.op = .and ∧ r8 = s.a &&& m) ∨ (i.op = .ora ∧ r8 = s.a ||| m) ∨ (i.op = .eor ∧ r8 = s.a ^^^ m) →
    (i.operand = .src (.imm m) → exec i s = .next { s with
      a := r8, flags := flagsOfResult s.flags r8, pc := s.pc + 2, cycles := s.cycles + 2 }) ∧
    (∀ (mode : MemMode) (e : Effective) (u : State), i.operand = .src (.mem mode) →
      effective .read mode s = .ok e → memRead e.addr e.state = .ok (m, u) →
      exec i s = .next { s.withBus u with
        a := r8, flags := flagsOfResult s.flags r8, pc := s.pc + BitVec.ofNat 16 i.length,
        cycles := s.cycles + readCycles e.crossed mode })) ∧
  (∀ (a m : Byte) (k : Nat), k < 8 → (a &&& m).getLsbD k = (a.getLsbD k && m.getLsbD k) ∧
    (a ||| m).getLsbD k = (a.getLsbD k || m.getLsbD k) ∧ (a ^^^ m).getLsbD k = (a.getLsbD k != m.getLsbD k))

/-- Tier 2, stated (44_bitwise.md R168). BIT in both forms: Z from A AND the byte, V and N from bits 6 and 7 of
the byte, no register and no cell changes, and the byte is read. -/
def Obligations.BitTest : Prop :=
  (∀ (b : Byte) (w : Word),
    [Instr.bitZp b, .bitAbs w].map encode =
    [[0x24, b], [0x2C, lo8 w, hi8 w]]) ∧
  (∀ (i : Instr) (m : MemMode) (s u : State) (e : Effective) (v : Byte),
    i.op = .bit → i.operand = .src (.mem m) → effective .read m s = .ok e →
    memRead e.addr e.state = .ok (v, u) →
    exec i s = .next { s.withBus u with
      flags := { s.flags with z := decide (s.a &&& v = 0), v := v.getLsbD 6, n := v.getLsbD 7 },
      pc := s.pc + BitVec.ofNat 16 i.length, cycles := s.cycles + readCycles e.crossed m })

/-- Tier 2, stated (45_compare.md R175, R176, R177). CMP, CPX and CPY in all 14 forms: C is register >= byte
unsigned, Z is equality, N is bit 7 of the 8-bit difference; no register, no cell and no other flag changes. -/
def Obligations.CompareInstructions : Prop :=
  (∀ (b : Byte) (w : Word),
    [Instr.cmpImm b, .cmpZp b, .cmpZpx b, .cmpAbs w, .cmpAbsx w, .cmpAbsy w, .cmpIndx b, .cmpIndy b, .cpxImm b,
      .cpxZp b, .cpxAbs w, .cpyImm b, .cpyZp b, .cpyAbs w].map encode =
    [[0xC9, b], [0xC5, b], [0xD5, b], [0xCD, lo8 w, hi8 w], [0xDD, lo8 w, hi8 w], [0xD9, lo8 w, hi8 w],
      [0xC1, b], [0xD1, b], [0xE0, b], [0xE4, b], [0xEC, lo8 w, hi8 w], [0xC0, b], [0xC4, b],
      [0xCC, lo8 w, hi8 w]]) ∧
  (∀ (i : Instr) (s : State) (r m : Byte),
    (i.op = .cmp ∧ r = s.a) ∨ (i.op = .cpx ∧ r = s.x) ∨ (i.op = .cpy ∧ r = s.y) →
    let f : Flags := { s.flags with c := decide (m.toNat ≤ r.toNat), z := decide (r = m), n := (r - m).getLsbD 7 }
    (i.operand = .src (.imm m) →
      exec i s = .next { s with flags := f, pc := s.pc + 2, cycles := s.cycles + 2 }) ∧
    (∀ (mode : MemMode) (e : Effective) (u : State), i.operand = .src (.mem mode) →
      effective .read mode s = .ok e → memRead e.addr e.state = .ok (m, u) →
      exec i s = .next { s.withBus u with
        flags := f, pc := s.pc + BitVec.ofNat 16 i.length, cycles := s.cycles + readCycles e.crossed mode }))

/-- Tier 2, stated (46_branch.md R180 to R188). The eight branches: encodings, condition, target relative to the
byte after the branch, and cycles (2, 3 if taken, 4 if the page of the next instruction is left); no flag, no
other register and no cell changes. The hypotheses of the taken clauses say that no discarded read falls on a
device (92_eei_decisions.md D8); what happens there is the model's choice and is said by
ExtraReadsOnDevicesAreRefused, not here. -/
def Obligations.BranchInstructions : Prop :=
  (∀ (offset : Int),
    [Instr.bcc offset, .bcs offset, .beq offset, .bne offset, .bpl offset, .bmi offset, .bvc offset,
      .bvs offset].map encode =
    [[0x90, BitVec.ofInt 8 offset], [0xB0, BitVec.ofInt 8 offset], [0xF0, BitVec.ofInt 8 offset],
      [0xD0, BitVec.ofInt 8 offset], [0x10, BitVec.ofInt 8 offset], [0x30, BitVec.ofInt 8 offset],
      [0x50, BitVec.ofInt 8 offset], [0x70, BitVec.ofInt 8 offset]]) ∧
  (∀ (i : Instr) (offset : Int) (s : State), i.operand = .rel offset →
    let next : Word := s.pc + 2
    let target : Word := s.pc + 2 + BitVec.ofInt 16 offset
    let uncarried : Word := wordOf (hi8 next) (lo8 target)
    ∃ cond, branchCondition i.op s.flags = some cond ∧
      (cond = false → exec i s = .next { s with pc := next, cycles := s.cycles + 2 }) ∧
      (cond = true → kindAt s.platform next ≠ .device → hi8 next = hi8 target →
        exec i s = .next { s with pc := target, cycles := s.cycles + 3 }) ∧
      (cond = true → kindAt s.platform next ≠ .device → hi8 next ≠ hi8 target →
        kindAt s.platform uncarried ≠ .device →
        exec i s = .next { s with pc := target, cycles := s.cycles + 4 }))

/-- Tier 1, stated (47_jump.md R195). JMP Absolute: encoding, and PC is the operand; nothing else changes; it
completes in every state. -/
def Obligations.JumpAbsolute : Prop :=
  (∀ (w : Word),
    [Instr.jmpAbs w, .jmpInd w].map encode =
    [[0x4C, lo8 w, hi8 w], [0x6C, lo8 w, hi8 w]]) ∧
  (∀ (w : Word) (s : State), exec (.jmpAbs w) s = .next { s with pc := w, cycles := s.cycles + 3 })

/-- Tier 2, stated (47_jump.md R196). JMP (Indirect) reads the low byte at the pointer and the high byte at the
next address of the same page: for a pointer that does not end in FF that is the next address, for one that does
it is the first address of the page. -/
def Obligations.JumpIndirectPageDefect : Prop :=
  ∀ (p : Word) (s u1 u2 : State) (lo hi : Byte),
    let p2 : Word := wordOf (hi8 p) (lo8 p + 1)
    (lo8 p ≠ 0xFF → p2 = p + 1) ∧ (lo8 p = 0xFF → p2 = wordOf (hi8 p) 0x00) ∧
    (memRead p s = .ok (lo, u1) → memRead p2 u1 = .ok (hi, u2) →
      exec (.jmpInd p) s = .next { s.withBus u2 with pc := wordOf hi lo, cycles := s.cycles + 5 })

/-- Tier 2 (47_jump.md R197). JSR pushes pc0 + 2, high byte first, at the two stack addresses the meaning
computes, and goes to its operand; no flag and no other register changes; a stack cell that is not ram is as
before. The hypothesis on a device at the first stack address is the discarded read there (92_eei_decisions.md
D8, 93_implementation_defined.md U9). That JSR completes with a device at the second stack address is the
model's choice (entry 36, DESIGN CHOICE): the row of JSR in U9 also names the two pushes, and the model takes
them for accesses of R197, not for discarded reads. -/
def Obligations.JumpSubroutine : Prop :=
  (∀ (w : Word),
    [Instr.jsr w].map encode =
    [[0x20, lo8 w, hi8 w]]) ∧
  (∀ (w : Word) (s : State), s.mem.wf = true →
    let ret : Word := s.pc + 2
    let a0 := stackAddr s.sp
    let a1 := stackAddr (s.sp - 1)
    kindAt s.platform a0 ≠ .device → kindAt s.platform a0 ≠ .unmapped → kindAt s.platform a1 ≠ .unmapped →
    ∃ cells : Memory, exec (.jsr w) s = .next { s with
        mem := cells, sp := s.sp - 2, pc := w, cycles := s.cycles + 6,
        trace := .write a1 (lo8 ret) :: .write a0 (hi8 ret) :: s.trace } ∧
      (∀ addr : Word, addr ≠ a0 → addr ≠ a1 → cellAt cells addr = cellAt s.mem addr) ∧
      (kindAt s.platform a0 = .ram → cellAt cells a0 = hi8 ret) ∧
      (kindAt s.platform a1 = .ram → cellAt cells a1 = lo8 ret) ∧
      (kindAt s.platform a0 ≠ .ram → cellAt cells a0 = cellAt s.mem a0) ∧
      (kindAt s.platform a1 ≠ .ram → cellAt cells a1 = cellAt s.mem a1))

/-- Tier 2, stated (47_jump.md R198). RTS pulls the low byte, then the high byte, and PC is the word plus 1; no
flag changes. The hypotheses say that the two cells are readable and that no discarded read falls on a device
(D8). -/
def Obligations.ReturnFromSubroutine : Prop :=
  (
    [Instr.rts].map encode =
    [[0x60]]) ∧
  (∀ (s u1 u2 : State) (lo hi : Byte),
    kindAt s.platform (s.pc + 1) ≠ .device → kindAt s.platform (stackAddr s.sp) ≠ .device →
    memRead (stackAddr (s.sp + 1)) s = .ok (lo, u1) → memRead (stackAddr (s.sp + 2)) u1 = .ok (hi, u2) →
    kindAt s.platform (wordOf hi lo) ≠ .device →
    exec .rts s = .next { s.withBus u2 with sp := s.sp + 2, pc := wordOf hi lo + 1, cycles := s.cycles + 6 })

/-- Tier 2 (47_jump.md R199). BRK, whatever I holds: pushes pc0 + 2 and the flags byte with B = 1 and the old I,
sets I and no other flag, and goes through the IRQ vector, or through the NMI vector if an NMI is pending or its
edge arrives and hijacks; an edge that does not hijack is held; nothing is latched. Clauses the spec decides
itself: that an NMI pending as the BRK starts hijacks for certain, and that the environment chooses for an edge
during it (D18, entry 17, DESIGN CHOICE); that nothing is latched because BRK does not poll (D25, entry 19,
PRESUMED); the NMI vector's default (D5, entry 11) is not used, the parameter is free. -/
def Obligations.BreakInstruction : Prop :=
  (
    [Instr.brk].map encode =
    [[0x00]]) ∧
  (∀ (s u1 u2 : State) (lo hi : Byte), s.mem.wf = true →
    let e := currentEnv s
    let hijack := s.nmiPending || (e.nmiEdge && e.nmiHijacksBrk)
    let ret : Word := s.pc + 2
    let p := packP true s.flags
    let a0 := stackAddr s.sp
    let a1 := stackAddr (s.sp - 1)
    let a2 := stackAddr (s.sp - 2)
    let m3 := cellStore s.platform (cellStore s.platform (cellStore s.platform s.mem a0 (hi8 ret)) a1 (lo8 ret)) a2 p
    let v : Word := if hijack then s.platform.nmiVector else 0xFFFE
    kindAt s.platform (s.pc + 1) ≠ .device → kindAt s.platform a0 ≠ .unmapped → kindAt s.platform a1 ≠ .unmapped →
    kindAt s.platform a2 ≠ .unmapped →
    memRead v { s with mem := m3, trace := .write a2 p :: .write a1 (lo8 ret) :: .write a0 (hi8 ret) :: s.trace }
      = .ok (lo, u1) →
    memRead (v + 1) u1 = .ok (hi, u2) →
    exec .brk s = .next { s.withBus u2 with
      sp := s.sp - 3, mem := m3, flags := { s.flags with i := true }, pc := wordOf hi lo, intLatch := none,
      nmiPending := (if hijack then false else e.nmiEdge), cycles := s.cycles + 7 } ∧
    (∀ addr : Word, addr ≠ a0 → addr ≠ a1 → addr ≠ a2 → cellAt m3 addr = cellAt s.mem addr) ∧
    (kindAt s.platform a0 = .ram → cellAt m3 a0 = hi8 ret) ∧
    (kindAt s.platform a1 = .ram → cellAt m3 a1 = lo8 ret) ∧ (kindAt s.platform a2 = .ram → cellAt m3 a2 = p))

/-- Tier 2, stated (47_jump.md R200). RTI pulls the six flags (bits 5 and 4 ignored), then PC low and PC high,
with no increment. -/
def Obligations.ReturnFromInterrupt : Prop :=
  (
    [Instr.rti].map encode =
    [[0x40]]) ∧
  (∀ (s u1 u2 u3 : State) (p lo hi : Byte),
    kindAt s.platform (s.pc + 1) ≠ .device → kindAt s.platform (stackAddr s.sp) ≠ .device →
    memRead (stackAddr (s.sp + 1)) s = .ok (p, u1) → memRead (stackAddr (s.sp + 2)) u1 = .ok (lo, u2) →
    memRead (stackAddr (s.sp + 3)) u2 = .ok (hi, u3) →
    exec .rti s = .next { s.withBus u3 with
      sp := s.sp + 3, pc := wordOf hi lo, cycles := s.cycles + 6,
      flags := { n := p.getLsbD 7, v := p.getLsbD 6, d := p.getLsbD 3, i := p.getLsbD 2, z := p.getLsbD 1,
                 c := p.getLsbD 0 } })

/-- Tier 2, stated (48_stack.md R210, R212). PHA and PHP: the byte (A, or the flags byte with bits 5 and 4 set)
is written at the stack address the meaning computes, SP goes down by 1, no flag changes; if the address is not
ram no cell changes. -/
def Obligations.PushInstructions : Prop :=
  (
    [Instr.pha, .php].map encode =
    [[0x48], [0x08]]) ∧
  (∀ (i : Instr) (s : State) (v : Byte), (i.op = .pha ∧ v = s.a) ∨ (i.op = .php ∧ v = packP true s.flags) →
    s.mem.wf = true → kindAt s.platform (s.pc + 1) ≠ .device →
    kindAt s.platform (stackAddr s.sp) ≠ .unmapped →
    ∃ cells : Memory, exec i s = .next { s with
        mem := cells, sp := s.sp - 1, pc := s.pc + 1, cycles := s.cycles + 3,
        trace := .write (stackAddr s.sp) v :: s.trace } ∧
      (∀ addr : Word, addr ≠ stackAddr s.sp → cellAt cells addr = cellAt s.mem addr) ∧
      (kindAt s.platform (stackAddr s.sp) = .ram → cellAt cells (stackAddr s.sp) = v) ∧
      (kindAt s.platform (stackAddr s.sp) ≠ .ram → cells = s.mem)) ∧
  (∀ sp : Byte, stackAddr sp = wordOf 0x01 sp)

/-- Tier 2, stated (48_stack.md R211, R213). PLA and PLP: SP goes up by 1, then the byte there is read; PLA
loads A and sets Z and N, PLP loads the six flags. -/
def Obligations.PullInstructions : Prop :=
  (
    [Instr.pla, .plp].map encode =
    [[0x68], [0x28]]) ∧
  (∀ (s u : State) (v : Byte), kindAt s.platform (s.pc + 1) ≠ .device →
    kindAt s.platform (stackAddr s.sp) ≠ .device → memRead (stackAddr (s.sp + 1)) s = .ok (v, u) →
    let t : State := { s.withBus u with sp := s.sp + 1, pc := s.pc + 1, cycles := s.cycles + 4 }
    exec .pla s = .next { t with a := v, flags := flagsOfResult s.flags v } ∧
    exec .plp s = .next { t with
      flags := { n := v.getLsbD 7, v := v.getLsbD 6, d := v.getLsbD 3, i := v.getLsbD 2, z := v.getLsbD 1,
                 c := v.getLsbD 0 } })

/-- Tier 2, stated (49_flags_other.md R220 to R227). The seven flag instructions write their one flag with their
constant, NOP writes none; every register but PC, every other flag and every cell is unchanged. The poll that
ends a CLI or an SEI sees I as it was before the instruction, which delays the effect of the new I. (What a poll
latches is PollAfterInstruction.) -/
def Obligations.FlagInstructionsAndNop : Prop :=
  (
    [Instr.clc, .sec, .cli, .sei, .cld, .sed, .clv, .nop].map encode =
    [[0x18], [0x38], [0x58], [0x78], [0xD8], [0xF8], [0xB8], [0xEA]]) ∧
  (∀ s : State, kindAt s.platform (s.pc + 1) ≠ .device →
    let t : State := { s with pc := s.pc + 1, cycles := s.cycles + 2 }
    exec .clc s = .next { t with flags := { s.flags with c := false } } ∧
    exec .sec s = .next { t with flags := { s.flags with c := true } } ∧
    exec .cli s = .next { t with flags := { s.flags with i := false } } ∧
    exec .sei s = .next { t with flags := { s.flags with i := true } } ∧
    exec .cld s = .next { t with flags := { s.flags with d := false } } ∧
    exec .sed s = .next { t with flags := { s.flags with d := true } } ∧
    exec .clv s = .next { t with flags := { s.flags with v := false } } ∧
    exec .nop s = .next t) ∧
  (∀ (before : Bool) (s : State), finishInstr .cli before s = popInput (poll before s) ∧
    finishInstr .sei before s = popInput (poll before s))

/-- Tier 2, liveness. Where every address is ram and decimal mode is not active, every one of the 151
instructions has a next state; it takes at least two cycles, and PC is past the instruction unless the
instruction is a branch, jump, call, return or BRK (10_state.md R25, 93_implementation_defined.md section 1: no
behaviour of the 56 official instructions on ram is a fault). That PC wraps mod 65536 is the spec's decision D9
(entry 26, DEDUCED); the cycle counter is the model's field (entry 9). -/
def Obligations.EveryInstructionCompletesOnRam : Prop :=
  ∀ (i : Instr) (s : State), AllRam s.platform → ¬ (s.platform.bcdEnabled = true ∧ s.flags.d = true) →
    ∃ t, exec i s = .next t ∧ s.cycles + 2 ≤ t.cycles ∧
      (i.op ∉ controlOps → t.pc = s.pc + BitVec.ofNat 16 i.length)

/-- Tier 2, safety. Where every address is ram and BCD_ENABLED is false (the defaults of 00_scope.md R6), a step
of any kind, from any state, is refused only for an undocumented opcode, and only when it is an instruction
step; an interrupt sequence and a reset always complete (00_scope.md R13, 60_exceptions.md R244). That an
undocumented opcode is refused is the spec's decision D3 (entry 22, DESIGN CHOICE); that there is no other
outcome than a next state or a refusal is entry 30 (DEDUCED). -/
def Obligations.OnRamOnlyUndocumentedOpcodesStop : Prop :=
  ∀ s : State, AllRam s.platform → s.platform.bcdEnabled = false →
    (∃ t, step s = .next t) ∨
    (resetNext s = false ∧ s.intLatch = none ∧ undocumented (cellAt s.mem s.pc) = true ∧
      step s = .refused (.undocumentedOpcode (cellAt s.mem s.pc) s.pc))

/-- Tier 3 (10_state.md R26). No instruction outside the writers the table lists for a flag changes that flag,
on any platform and from any state. -/
def Obligations.FlagWritersOnly : Prop :=
  ∀ (i : Instr) (s t : State), exec i s = .next t →
    (i.op ∉ carryWriters → t.flags.c = s.flags.c) ∧ (i.op ∉ zeroNegativeWriters → t.flags.z = s.flags.z) ∧
    (i.op ∉ interruptDisableWriters → t.flags.i = s.flags.i) ∧ (i.op ∉ decimalWriters → t.flags.d = s.flags.d) ∧
    (i.op ∉ overflowWriters → t.flags.v = s.flags.v) ∧ (i.op ∉ zeroNegativeWriters → t.flags.n = s.flags.n)

/-- Tier 3. No instruction outside the writers the spec lists for A, X, Y or SP changes that register; the
shifts write A in Accumulator mode only (10_state.md R20 to R23). -/
def Obligations.RegisterWritersOnly : Prop :=
  ∀ (i : Instr) (s t : State), exec i s = .next t →
    (i.op ∉ accumulatorWriters → ¬ (i.op ∈ shiftOps ∧ i.operand = .acc) → t.a = s.a) ∧
    (i.op ∉ xWriters → t.x = s.x) ∧ (i.op ∉ yWriters → t.y = s.y) ∧ (i.op ∉ stackPointerWriters → t.sp = s.sp)

/-- Tier 3. An instruction that is not of the write or read-modify-write kind with a memory mode, and does not
push, changes no cell: memory is the same list (20_memory.md R51, 30_encoding.md R95). -/
def Obligations.MemoryWritersOnly : Prop :=
  ∀ (i : Instr) (s t : State), exec i s = .next t → ¬ writesMemory i → t.mem = s.mem

/-- Tier 3, invariant. No step of any kind (instruction, interrupt sequence, reset) changes the cell of an
address that is not ram: rom keeps its content along every run (20_memory.md R55, 70_reset_and_hazards.md R281).
That a write to rom changes no cell is the spec's decision D7; of a device R55 says only that what a write
changes is the platform's affair, so that its cell stays is the model's choice (entry 25, DESIGN CHOICE). -/
def Obligations.OnlyRamChanges : Prop :=
  ∀ (s t : State) (addr : Word), step s = .next t → kindAt s.platform addr ≠ .ram →
    cellAt t.mem addr = cellAt s.mem addr

/-- Tier 3, invariant. Every step keeps the canonical form of memory (strictly rising addresses below 65536, no
entry equal to an unlisted cell), which the statements about stores have as a premise. The form is the model's
(20_memory.md R50 gives the 65536 cells; entry 5 the unlisted byte). -/
def Obligations.MemoryStaysCanonical : Prop :=
  ∀ s t : State, s.mem.wf = true → step s = .next t → t.mem.wf = true

/-- Tier 3, invariant (10_state.md R36, R37, 60_exceptions.md R246, R250). Every step keeps the invariant that a
latched NMI is still pending: an NMI is held until the CPU starts its sequence. That an NMI is an edge held in
nmiPending is the spec's decision D11 (entry 12, PRESUMED), that neither BRK nor an interrupt sequence polls is
D25 (entry 19, PRESUMED), and that the latch is a field of its own is the model's (entry 29, DESIGN CHOICE). -/
def Obligations.LatchedNmiIsPending : Prop :=
  ∀ s t : State, (s.intLatch = some .nmi → s.nmiPending = true) → step s = .next t →
    (t.intLatch = some .nmi → t.nmiPending = true)

/-- Tier 1. State.reset has the values 10_state.md R40 gives (I = 1, no NMI pending, nothing latched, PC the
word at RESET_VECTOR), the default parameters of 00_scope.md R6, and meets the two invariants. The values of A,
X, Y, SP, the other flags and unlisted cells are the model's choice (entries 4, 5) and are left out here; that
the list of cells is empty is entry 5. The values themselves are decisions of the spec, whose source does not
mention reset: I = 1 and nothing pending (D6), PC through $FFFC and the defaults $FFFA and $FFFC (D5, D6; entry
11, PRESUMED, unsafe for the default values), the other parameters (D1, D2, D7; entry 3, DESIGN CHOICE). -/
def Obligations.ResetStateIsAsTheSpecSays : Prop :=
  State.reset.flags.i = true ∧ State.reset.nmiPending = false ∧ State.reset.intLatch = none ∧
  State.reset.pc = cellPair State.reset.mem 0xFFFC 0xFFFD ∧
  State.reset.platform.bcdEnabled = false ∧ State.reset.platform.soPin = false ∧
  State.reset.platform.nmiVector = 0xFFFA ∧ State.reset.platform.resetVector = 0xFFFC ∧
  AllRam State.reset.platform ∧ State.reset.mem.wf = true ∧
  (State.reset.intLatch = some .nmi → State.reset.nmiPending = true)

/-- Tier 2. Every step leaves the parameters of 00_scope.md R6 as they are, takes exactly one input and counts
one step; the event history only grows, by at least one access. This is about the model's own representation,
which no rule states: the inputs are a list of which a step takes the head, and a count of steps (entry 1,
DESIGN CHOICE), the parameters are a field of State (entry 3, DESIGN CHOICE), the history is a field (entry 8,
DESIGN CHOICE). -/
def Obligations.StepKeepsParameters : Prop :=
  ∀ s t : State, step s = .next t →
    t.platform = s.platform ∧ t.inputs = s.inputs.tail ∧ t.steps = s.steps + 1 ∧
    ∃ new : List Event, new ≠ [] ∧ t.trace = new ++ s.trace

/-- Tier 3, noninterference (70_reset_and_hazards.md R293). No instruction reads time: the outcome of a step
does not depend on the cycle counter or the event history, except that the next state carries its own. Both are
the model's own fields (entries 8 and 9). -/
def Obligations.TimeAndHistoryAreUnobservable : Prop :=
  ∀ (s : State) (history : List Event) (time : Nat),
    (∀ t, step s = .next t → ∃ history' time',
      step { s with trace := history, cycles := time } = .next { t with trace := history', cycles := time' }) ∧
    (∀ r, step s = .refused r → step { s with trace := history, cycles := time } = .refused r)

/-- Tier 2 (42_arithmetic.md R140, R141, derived remarks). After a binary ADC in any form, V says that the
signed sum with the carry lies outside −128 to 127 and A and C together hold the unsigned sum; after SBC in any
form, V says it of the signed difference with the borrow. `operandByte i s m` says that m is the byte the form's
operand delivers. -/
def Obligations.SignedOverflowMeaning : Prop :=
  ∀ (i : Instr) (s t : State) (m : Byte), operandByte i s m → exec i s = .next t →
    let c : Int := if s.flags.c then 1 else 0
    (i.op = .adc →
      (t.flags.v = true ↔ ¬ (-128 ≤ s.a.toInt + m.toInt + c ∧ s.a.toInt + m.toInt + c ≤ 127)) ∧
      (t.a.toNat : Int) + 256 * (if t.flags.c then 1 else 0) = s.a.toNat + m.toNat + c) ∧
    (i.op = .sbc →
      (t.flags.v = true ↔ ¬ (-128 ≤ s.a.toInt - m.toInt - (1 - c) ∧ s.a.toInt - m.toInt - (1 - c) ≤ 127)) ∧
      (t.a.toNat : Int) + 256 * ((if t.flags.c then 1 else 0) - 1) = s.a.toNat - m.toNat - (1 - c))

/-- Tier 2 (45_compare.md R175 to R177, derived remark). CMP, CPX and CPY in any form set C, Z and N as SBC in
any form with the same operand byte does when A holds the register and C = 1, and throw the result and V away.
-/
def Obligations.CompareIsSubtractWithCarrySet : Prop :=
  ∀ (i j : Instr) (s t u : State) (r m : Byte),
    (i.op = .cmp ∧ r = s.a) ∨ (i.op = .cpx ∧ r = s.x) ∨ (i.op = .cpy ∧ r = s.y) → j.op = .sbc →
    let s' : State := { s with a := r, flags := { s.flags with c := true } }
    operandByte i s m → operandByte j s' m → exec i s = .next t → exec j s' = .next u →
    t.flags.c = u.flags.c ∧ t.flags.z = u.flags.z ∧ t.flags.n = u.flags.n ∧
    t.a = s.a ∧ t.x = s.x ∧ t.y = s.y ∧ t.flags.v = s.flags.v

/-- Tier 2 (43_shift.md R158, R159). Nine ROL A in a row, and nine ROR A, return A and C to what they were. -/
def Obligations.NineRotationsReturn : Prop :=
  ∀ s : State, AllRam s.platform →
    (∃ t, execAll (List.replicate 9 .rolAcc) s = .next t ∧ t.a = s.a ∧ t.flags.c = s.flags.c) ∧
    (∃ t, execAll (List.replicate 9 .rorAcc) s = .next t ∧ t.a = s.a ∧ t.flags.c = s.flags.c) ∧
    (∃ t, execAll [.rolAcc, .rorAcc] s = .next t ∧ t.a = s.a ∧ t.flags.c = s.flags.c)

/-- Tier 2 (47_jump.md R201). JSR followed by RTS resumes at the instruction after the JSR with SP and the flags
as they were. That SP and PC wrap is the spec's decisions D9 and D10 (entry 26, DEDUCED). -/
def Obligations.CallThenReturn : Prop :=
  ∀ (w : Word) (s : State), AllRam s.platform → s.mem.wf = true →
    ∃ t, execAll [.jsr w, .rts] s = .next t ∧ t.pc = s.pc + 3 ∧ t.sp = s.sp ∧ t.flags = s.flags ∧
      t.a = s.a ∧ t.x = s.x ∧ t.y = s.y

/-- Tier 2 (47_jump.md R201, R199, R200). BRK followed by RTI resumes at pc0 + 2 with SP and all six flags as
they were, hijacked or not. That SP and PC wrap is the spec's decisions D9 and D10 (entry 26, DEDUCED). -/
def Obligations.BreakThenReturn : Prop :=
  ∀ s : State, AllRam s.platform → s.mem.wf = true →
    ∃ t, execAll [.brk, .rti] s = .next t ∧ t.pc = s.pc + 2 ∧ t.sp = s.sp ∧ t.flags = s.flags ∧
      t.a = s.a ∧ t.x = s.x ∧ t.y = s.y

/-- Tier 2 (10_state.md R34). PLP followed by PHP puts back the byte pulled with bits 5 and 4 set: there is no B
and no extra bit in the CPU. That SP wraps is the spec's decision D10 (entry 26, DEDUCED). -/
def Obligations.PullThenPushSetsBits5And4 : Prop :=
  ∀ s : State, AllRam s.platform → s.mem.wf = true →
    ∃ t, execAll [.plp, .php] s = .next t ∧ t.sp = s.sp ∧
      cellAt t.mem (stackAddr (s.sp + 1)) = cellAt s.mem (stackAddr (s.sp + 1)) ||| 0x30

/-- Tier 2 (60_exceptions.md R243, R262). No protocol is assumed of the environment: a step past the listed
inputs is the step with the free input listed, whatever it is (a reset, an IRQ, an NMI edge, a pin). That inputs
are a list with free values after it is the model's choice (entry 1, DESIGN CHOICE). -/
def Obligations.FreeInputsActAsListedOnes : Prop :=
  ∀ s : State, s.inputs = [] → step s = step { s with inputs := [Config.laterInput s.steps] }

/-- Tier 2. StepRunsDecodedInstruction wherever the bytes lie, on a device too: where the bytes read from PC
upwards decode to instruction i, no reset is next and nothing is latched, the step is exec of i at the state
those reads leave, followed by finishInstr (60_exceptions.md R240, 20_memory.md R60). That the pin acts before
the fetch is the spec's decision D2 (entry 21, DESIGN CHOICE); that all bytes are fetched before exec acts is
read from R60 (entry 27, DEDUCED), for JSR it is D19 (entry 18, DESIGN CHOICE); which bytes a device gives is
entry 2 (DESIGN CHOICE). -/
def Obligations.StepRunsFetchedInstruction : Prop :=
  ∀ (s u : State) (i : Instr) (bytes : List Byte),
    resetNext s = false → s.intLatch = none →
    readBytes s.pc i.length (overflowPin s) = .ok (bytes, u) → decode bytes = .ok (i, []) →
    step s = match exec i u with
      | .next t => .next (finishInstr i.op u.flags.i t)
      | .fault f => .fault f
      | .refused r => .refused r
end

