-- ==== Sys2Proof/Laws/Bytes.lean ====
section
/-! SUPPORT. Words and their two bytes (00_scope.md R8). -/

namespace Sys2Proof

theorem toNat_wordOf (hi lo : Byte) : (wordOf hi lo).toNat = hi.toNat * 256 + lo.toNat := by
  unfold wordOf
  rw [BitVec.toNat_append, ← Nat.shiftLeft_add_eq_or_of_lt lo.isLt, Nat.shiftLeft_eq]

theorem toNat_lo8 (w : Word) : (lo8 w).toNat = w.toNat % 256 := by simp [lo8]

theorem toNat_hi8 (w : Word) : (hi8 w).toNat = w.toNat / 256 := by
  have := w.isLt
  simp only [hi8, BitVec.toNat_setWidth, BitVec.toNat_ushiftRight, Nat.shiftRight_eq_div_pow]
  omega

@[simp] theorem wordOf_hi8_lo8 (w : Word) : wordOf (hi8 w) (lo8 w) = w := by
  apply BitVec.eq_of_toNat_eq
  rw [toNat_wordOf, toNat_hi8, toNat_lo8]
  omega

@[simp] theorem lo8_wordOf (hi lo : Byte) : lo8 (wordOf hi lo) = lo := by
  have := lo.isLt
  apply BitVec.eq_of_toNat_eq
  rw [toNat_lo8, toNat_wordOf]
  omega

@[simp] theorem hi8_wordOf (hi lo : Byte) : hi8 (wordOf hi lo) = hi := by
  have := lo.isLt
  apply BitVec.eq_of_toNat_eq
  rw [toNat_hi8, toNat_wordOf]
  omega

/-- The byte of an offset and the offset of a byte are inverse on the range of R93. -/
theorem sext8_offsetByte {offset : Int} (h : OffsetInRange offset) : sext8 (offsetByte offset) = offset := by
  obtain ⟨h1, h2⟩ := h
  unfold sext8 offsetByte
  rw [BitVec.toInt_ofInt]
  exact Int.bmod_eq_of_le (by omega) (by omega)

@[simp] theorem offsetByte_sext8 (b : Byte) : offsetByte (sext8 b) = b := BitVec.ofInt_toInt

theorem offsetInRange_sext8 (b : Byte) : OffsetInRange (sext8 b) :=
  ⟨BitVec.le_toInt b, by have := BitVec.toInt_lt (x := b); unfold sext8; omega⟩

end Sys2Proof
end

