-- ==== Sys2Proof/Laws/Memory.lean ====
section
/-! SUPPORT. Reading after writing a cell, and that a write keeps the canonical form. -/

namespace Sys2Proof.Machine

@[simp] theorem Memory.read_nil (addr : Nat) : Memory.read [] addr = unlistedByte := rfl

@[simp] theorem Memory.read_cons (k : Nat) (v : Byte) (rest : Memory) (addr : Nat) :
    Memory.read ((k, v) :: rest) addr = if k = addr then v else Memory.read rest addr := rfl

theorem Memory.wfFrom_cons {lo k : Nat} {v : Byte} {rest : Memory} :
    Memory.wfFrom lo ((k, v) :: rest) = true ↔
      lo ≤ k ∧ k < 65536 ∧ v ≠ unlistedByte ∧ Memory.wfFrom (k + 1) rest = true := by
  simp [Memory.wfFrom, and_assoc]

theorem Memory.wfFrom_mono {lo lo' : Nat} {m : Memory} (h : Memory.wfFrom lo m = true) (hl : lo' ≤ lo) :
    Memory.wfFrom lo' m = true := by
  cases m with
  | nil => rfl
  | cons c rest =>
    obtain ⟨k, v⟩ := c
    rw [Memory.wfFrom_cons] at h ⊢
    exact ⟨hl.trans h.1, h.2⟩

/-- Below the bound of a canonical list nothing is listed. -/
theorem Memory.read_below {lo addr : Nat} {m : Memory} (h : Memory.wfFrom lo m = true) (ha : addr < lo) :
    m.read addr = unlistedByte := by
  induction m generalizing lo with
  | nil => rfl
  | cons c rest ih =>
    obtain ⟨k, v⟩ := c
    rw [Memory.wfFrom_cons] at h
    rw [Memory.read_cons, if_neg (by omega)]
    exact ih h.2.2.2 (by omega)

theorem Memory.read_consCell_same {lo addr : Nat} {v : Byte} {rest : Memory}
    (h : Memory.wfFrom lo rest = true) (ha : addr < lo) : (consCell addr v rest).read addr = v := by
  unfold consCell
  split
  · rename_i hv
    rw [hv]
    exact Memory.read_below h ha
  · simp

theorem Memory.read_consCell_other {addr b : Nat} {v : Byte} {rest : Memory} (hb : b ≠ addr) :
    (consCell addr v rest).read b = rest.read b := by
  unfold consCell
  split
  · rfl
  · simp [Ne.symm hb]

/-- A read after a write to the same cell of a canonical memory gives the byte written. -/
theorem Memory.read_write_same {m : Memory} (h : m.wf = true) (addr : Nat) (v : Byte) :
    (m.write addr v).read addr = v := by
  suffices ∀ lo, Memory.wfFrom lo m = true → (m.write addr v).read addr = v from this 0 h
  clear h
  induction m with
  | nil => intro _ _; exact Memory.read_consCell_same (lo := addr + 1) rfl (by omega)
  | cons c rest ih =>
    obtain ⟨k, w⟩ := c
    intro lo h
    have hc := Memory.wfFrom_cons.mp h
    unfold Memory.write
    split
    · exact Memory.read_consCell_same (lo := k) (Memory.wfFrom_cons.mpr ⟨le_refl k, hc.2⟩) ‹_›
    · split
      · exact Memory.read_consCell_same hc.2.2.2 (by omega)
      · rw [Memory.read_cons, if_neg (by omega)]
        exact ih _ hc.2.2.2

/-- A write leaves every other cell alone, in any memory. -/
theorem Memory.read_write_other (m : Memory) {addr b : Nat} (v : Byte) (hb : b ≠ addr) :
    (m.write addr v).read b = m.read b := by
  induction m with
  | nil => exact Memory.read_consCell_other hb
  | cons c rest ih =>
    obtain ⟨k, w⟩ := c
    unfold Memory.write
    split
    · exact Memory.read_consCell_other hb
    · split
      · rename_i hk
        rw [Memory.read_consCell_other hb, Memory.read_cons, if_neg (by omega)]
      · simp [ih]

theorem Memory.wfFrom_consCell {lo addr : Nat} {v : Byte} {rest : Memory}
    (h : Memory.wfFrom (addr + 1) rest = true) (hl : lo ≤ addr) (ha : addr < 65536) :
    Memory.wfFrom lo (consCell addr v rest) = true := by
  unfold consCell
  split
  · exact Memory.wfFrom_mono h (by omega)
  · exact Memory.wfFrom_cons.mpr ⟨hl, ha, ‹_›, h⟩

theorem Memory.wfFrom_write {m : Memory} {lo addr : Nat} (v : Byte) (h : Memory.wfFrom lo m = true)
    (hl : lo ≤ addr) (ha : addr < 65536) : Memory.wfFrom lo (m.write addr v) = true := by
  induction m generalizing lo with
  | nil => exact Memory.wfFrom_consCell rfl hl ha
  | cons c rest ih =>
    obtain ⟨k, w⟩ := c
    have hc := Memory.wfFrom_cons.mp h
    unfold Memory.write
    split
    · exact Memory.wfFrom_consCell (Memory.wfFrom_cons.mpr ⟨by omega, hc.2⟩) hl ha
    · split
      · rename_i hk
        subst hk
        exact Memory.wfFrom_consCell hc.2.2.2 hl ha
      · exact Memory.wfFrom_cons.mpr ⟨hc.1, hc.2.1, hc.2.2.1, ih hc.2.2.2 (by omega)⟩

/-- A write to a cell of the address space keeps the canonical form. -/
theorem Memory.wf_write {m : Memory} {addr : Nat} (v : Byte) (h : m.wf = true) (ha : addr < 65536) :
    (m.write addr v).wf = true :=
  Memory.wfFrom_write v h (Nat.zero_le _) ha

/-- Two canonical memories with the same cells are the same list. -/
theorem Memory.wfFrom_ext {m m' : Memory} {lo : Nat} (h : Memory.wfFrom lo m = true)
    (h' : Memory.wfFrom lo m' = true) (hr : ∀ addr, m.read addr = m'.read addr) : m = m' := by
  induction m generalizing m' lo with
  | nil =>
    cases m' with
    | nil => rfl
    | cons c rest =>
      obtain ⟨k, v⟩ := c
      have := hr k
      simp at this
      exact absurd this.symm (Memory.wfFrom_cons.mp h').2.2.1
  | cons c rest ih =>
    obtain ⟨k, v⟩ := c
    have hc := Memory.wfFrom_cons.mp h
    cases m' with
    | nil =>
      have := hr k
      simp at this
      exact absurd this hc.2.2.1
    | cons c' rest' =>
      obtain ⟨k', v'⟩ := c'
      have hc' := Memory.wfFrom_cons.mp h'
      have hkk : k = k' := by
        rcases Nat.lt_trichotomy k k' with hlt | heq | hgt
        · have := hr k
          rw [Memory.read_cons, if_pos rfl, Memory.read_cons, if_neg (by omega),
            Memory.read_below hc'.2.2.2 (by omega)] at this
          exact absurd this hc.2.2.1
        · exact heq
        · have := hr k'
          rw [Memory.read_cons, if_neg (by omega), Memory.read_cons, if_pos rfl,
            Memory.read_below hc.2.2.2 (by omega)] at this
          exact absurd this.symm hc'.2.2.1
      subst hkk
      have hv : v = v' := by have := hr k; simpa using this
      subst hv
      have : rest = rest' := by
        apply ih hc.2.2.2 hc'.2.2.2
        intro addr
        by_cases ha : k = addr
        · subst ha
          rw [Memory.read_below hc.2.2.2 (by omega), Memory.read_below hc'.2.2.2 (by omega)]
        · have := hr addr
          simpa [ha] using this
      rw [this]

end Sys2Proof.Machine
end

