-- ==== Sys2Proof/Laws/State.lean ====
section
/-! SUPPORT. What each named update of a state does to each field: one lemma per field per update. -/

namespace Sys2Proof.Machine

variable (s : State)

@[simp] theorem State.setA_a (v : Byte) : (s.setA v).a = v := rfl
@[simp] theorem State.setA_x (v : Byte) : (s.setA v).x = s.x := rfl
@[simp] theorem State.setA_y (v : Byte) : (s.setA v).y = s.y := rfl
@[simp] theorem State.setA_sp (v : Byte) : (s.setA v).sp = s.sp := rfl
@[simp] theorem State.setA_pc (v : Byte) : (s.setA v).pc = s.pc := rfl
@[simp] theorem State.setA_flags (v : Byte) : (s.setA v).flags = s.flags := rfl
@[simp] theorem State.setA_mem (v : Byte) : (s.setA v).mem = s.mem := rfl
@[simp] theorem State.setA_nmiPending (v : Byte) : (s.setA v).nmiPending = s.nmiPending := rfl
@[simp] theorem State.setA_intLatch (v : Byte) : (s.setA v).intLatch = s.intLatch := rfl
@[simp] theorem State.setA_platform (v : Byte) : (s.setA v).platform = s.platform := rfl
@[simp] theorem State.setA_inputs (v : Byte) : (s.setA v).inputs = s.inputs := rfl
@[simp] theorem State.setA_steps (v : Byte) : (s.setA v).steps = s.steps := rfl
@[simp] theorem State.setA_deviceIn (v : Byte) : (s.setA v).deviceIn = s.deviceIn := rfl
@[simp] theorem State.setA_deviceReads (v : Byte) : (s.setA v).deviceReads = s.deviceReads := rfl
@[simp] theorem State.setA_trace (v : Byte) : (s.setA v).trace = s.trace := rfl
@[simp] theorem State.setA_cycles (v : Byte) : (s.setA v).cycles = s.cycles := rfl

@[simp] theorem State.setX_a (v : Byte) : (s.setX v).a = s.a := rfl
@[simp] theorem State.setX_x (v : Byte) : (s.setX v).x = v := rfl
@[simp] theorem State.setX_y (v : Byte) : (s.setX v).y = s.y := rfl
@[simp] theorem State.setX_sp (v : Byte) : (s.setX v).sp = s.sp := rfl
@[simp] theorem State.setX_pc (v : Byte) : (s.setX v).pc = s.pc := rfl
@[simp] theorem State.setX_flags (v : Byte) : (s.setX v).flags = s.flags := rfl
@[simp] theorem State.setX_mem (v : Byte) : (s.setX v).mem = s.mem := rfl
@[simp] theorem State.setX_nmiPending (v : Byte) : (s.setX v).nmiPending = s.nmiPending := rfl
@[simp] theorem State.setX_intLatch (v : Byte) : (s.setX v).intLatch = s.intLatch := rfl
@[simp] theorem State.setX_platform (v : Byte) : (s.setX v).platform = s.platform := rfl
@[simp] theorem State.setX_inputs (v : Byte) : (s.setX v).inputs = s.inputs := rfl
@[simp] theorem State.setX_steps (v : Byte) : (s.setX v).steps = s.steps := rfl
@[simp] theorem State.setX_deviceIn (v : Byte) : (s.setX v).deviceIn = s.deviceIn := rfl
@[simp] theorem State.setX_deviceReads (v : Byte) : (s.setX v).deviceReads = s.deviceReads := rfl
@[simp] theorem State.setX_trace (v : Byte) : (s.setX v).trace = s.trace := rfl
@[simp] theorem State.setX_cycles (v : Byte) : (s.setX v).cycles = s.cycles := rfl

@[simp] theorem State.setY_a (v : Byte) : (s.setY v).a = s.a := rfl
@[simp] theorem State.setY_x (v : Byte) : (s.setY v).x = s.x := rfl
@[simp] theorem State.setY_y (v : Byte) : (s.setY v).y = v := rfl
@[simp] theorem State.setY_sp (v : Byte) : (s.setY v).sp = s.sp := rfl
@[simp] theorem State.setY_pc (v : Byte) : (s.setY v).pc = s.pc := rfl
@[simp] theorem State.setY_flags (v : Byte) : (s.setY v).flags = s.flags := rfl
@[simp] theorem State.setY_mem (v : Byte) : (s.setY v).mem = s.mem := rfl
@[simp] theorem State.setY_nmiPending (v : Byte) : (s.setY v).nmiPending = s.nmiPending := rfl
@[simp] theorem State.setY_intLatch (v : Byte) : (s.setY v).intLatch = s.intLatch := rfl
@[simp] theorem State.setY_platform (v : Byte) : (s.setY v).platform = s.platform := rfl
@[simp] theorem State.setY_inputs (v : Byte) : (s.setY v).inputs = s.inputs := rfl
@[simp] theorem State.setY_steps (v : Byte) : (s.setY v).steps = s.steps := rfl
@[simp] theorem State.setY_deviceIn (v : Byte) : (s.setY v).deviceIn = s.deviceIn := rfl
@[simp] theorem State.setY_deviceReads (v : Byte) : (s.setY v).deviceReads = s.deviceReads := rfl
@[simp] theorem State.setY_trace (v : Byte) : (s.setY v).trace = s.trace := rfl
@[simp] theorem State.setY_cycles (v : Byte) : (s.setY v).cycles = s.cycles := rfl

@[simp] theorem State.setSp_a (v : Byte) : (s.setSp v).a = s.a := rfl
@[simp] theorem State.setSp_x (v : Byte) : (s.setSp v).x = s.x := rfl
@[simp] theorem State.setSp_y (v : Byte) : (s.setSp v).y = s.y := rfl
@[simp] theorem State.setSp_sp (v : Byte) : (s.setSp v).sp = v := rfl
@[simp] theorem State.setSp_pc (v : Byte) : (s.setSp v).pc = s.pc := rfl
@[simp] theorem State.setSp_flags (v : Byte) : (s.setSp v).flags = s.flags := rfl
@[simp] theorem State.setSp_mem (v : Byte) : (s.setSp v).mem = s.mem := rfl
@[simp] theorem State.setSp_nmiPending (v : Byte) : (s.setSp v).nmiPending = s.nmiPending := rfl
@[simp] theorem State.setSp_intLatch (v : Byte) : (s.setSp v).intLatch = s.intLatch := rfl
@[simp] theorem State.setSp_platform (v : Byte) : (s.setSp v).platform = s.platform := rfl
@[simp] theorem State.setSp_inputs (v : Byte) : (s.setSp v).inputs = s.inputs := rfl
@[simp] theorem State.setSp_steps (v : Byte) : (s.setSp v).steps = s.steps := rfl
@[simp] theorem State.setSp_deviceIn (v : Byte) : (s.setSp v).deviceIn = s.deviceIn := rfl
@[simp] theorem State.setSp_deviceReads (v : Byte) : (s.setSp v).deviceReads = s.deviceReads := rfl
@[simp] theorem State.setSp_trace (v : Byte) : (s.setSp v).trace = s.trace := rfl
@[simp] theorem State.setSp_cycles (v : Byte) : (s.setSp v).cycles = s.cycles := rfl

@[simp] theorem State.setPc_a (v : Word) : (s.setPc v).a = s.a := rfl
@[simp] theorem State.setPc_x (v : Word) : (s.setPc v).x = s.x := rfl
@[simp] theorem State.setPc_y (v : Word) : (s.setPc v).y = s.y := rfl
@[simp] theorem State.setPc_sp (v : Word) : (s.setPc v).sp = s.sp := rfl
@[simp] theorem State.setPc_pc (v : Word) : (s.setPc v).pc = v := rfl
@[simp] theorem State.setPc_flags (v : Word) : (s.setPc v).flags = s.flags := rfl
@[simp] theorem State.setPc_mem (v : Word) : (s.setPc v).mem = s.mem := rfl
@[simp] theorem State.setPc_nmiPending (v : Word) : (s.setPc v).nmiPending = s.nmiPending := rfl
@[simp] theorem State.setPc_intLatch (v : Word) : (s.setPc v).intLatch = s.intLatch := rfl
@[simp] theorem State.setPc_platform (v : Word) : (s.setPc v).platform = s.platform := rfl
@[simp] theorem State.setPc_inputs (v : Word) : (s.setPc v).inputs = s.inputs := rfl
@[simp] theorem State.setPc_steps (v : Word) : (s.setPc v).steps = s.steps := rfl
@[simp] theorem State.setPc_deviceIn (v : Word) : (s.setPc v).deviceIn = s.deviceIn := rfl
@[simp] theorem State.setPc_deviceReads (v : Word) : (s.setPc v).deviceReads = s.deviceReads := rfl
@[simp] theorem State.setPc_trace (v : Word) : (s.setPc v).trace = s.trace := rfl
@[simp] theorem State.setPc_cycles (v : Word) : (s.setPc v).cycles = s.cycles := rfl

@[simp] theorem State.setFlags_a (v : Flags) : (s.setFlags v).a = s.a := rfl
@[simp] theorem State.setFlags_x (v : Flags) : (s.setFlags v).x = s.x := rfl
@[simp] theorem State.setFlags_y (v : Flags) : (s.setFlags v).y = s.y := rfl
@[simp] theorem State.setFlags_sp (v : Flags) : (s.setFlags v).sp = s.sp := rfl
@[simp] theorem State.setFlags_pc (v : Flags) : (s.setFlags v).pc = s.pc := rfl
@[simp] theorem State.setFlags_flags (v : Flags) : (s.setFlags v).flags = v := rfl
@[simp] theorem State.setFlags_mem (v : Flags) : (s.setFlags v).mem = s.mem := rfl
@[simp] theorem State.setFlags_nmiPending (v : Flags) : (s.setFlags v).nmiPending = s.nmiPending := rfl
@[simp] theorem State.setFlags_intLatch (v : Flags) : (s.setFlags v).intLatch = s.intLatch := rfl
@[simp] theorem State.setFlags_platform (v : Flags) : (s.setFlags v).platform = s.platform := rfl
@[simp] theorem State.setFlags_inputs (v : Flags) : (s.setFlags v).inputs = s.inputs := rfl
@[simp] theorem State.setFlags_steps (v : Flags) : (s.setFlags v).steps = s.steps := rfl
@[simp] theorem State.setFlags_deviceIn (v : Flags) : (s.setFlags v).deviceIn = s.deviceIn := rfl
@[simp] theorem State.setFlags_deviceReads (v : Flags) : (s.setFlags v).deviceReads = s.deviceReads := rfl
@[simp] theorem State.setFlags_trace (v : Flags) : (s.setFlags v).trace = s.trace := rfl
@[simp] theorem State.setFlags_cycles (v : Flags) : (s.setFlags v).cycles = s.cycles := rfl

@[simp] theorem State.setMem_a (v : Memory) : (s.setMem v).a = s.a := rfl
@[simp] theorem State.setMem_x (v : Memory) : (s.setMem v).x = s.x := rfl
@[simp] theorem State.setMem_y (v : Memory) : (s.setMem v).y = s.y := rfl
@[simp] theorem State.setMem_sp (v : Memory) : (s.setMem v).sp = s.sp := rfl
@[simp] theorem State.setMem_pc (v : Memory) : (s.setMem v).pc = s.pc := rfl
@[simp] theorem State.setMem_flags (v : Memory) : (s.setMem v).flags = s.flags := rfl
@[simp] theorem State.setMem_mem (v : Memory) : (s.setMem v).mem = v := rfl
@[simp] theorem State.setMem_nmiPending (v : Memory) : (s.setMem v).nmiPending = s.nmiPending := rfl
@[simp] theorem State.setMem_intLatch (v : Memory) : (s.setMem v).intLatch = s.intLatch := rfl
@[simp] theorem State.setMem_platform (v : Memory) : (s.setMem v).platform = s.platform := rfl
@[simp] theorem State.setMem_inputs (v : Memory) : (s.setMem v).inputs = s.inputs := rfl
@[simp] theorem State.setMem_steps (v : Memory) : (s.setMem v).steps = s.steps := rfl
@[simp] theorem State.setMem_deviceIn (v : Memory) : (s.setMem v).deviceIn = s.deviceIn := rfl
@[simp] theorem State.setMem_deviceReads (v : Memory) : (s.setMem v).deviceReads = s.deviceReads := rfl
@[simp] theorem State.setMem_trace (v : Memory) : (s.setMem v).trace = s.trace := rfl
@[simp] theorem State.setMem_cycles (v : Memory) : (s.setMem v).cycles = s.cycles := rfl

@[simp] theorem State.setNmiPending_a (v : Bool) : (s.setNmiPending v).a = s.a := rfl
@[simp] theorem State.setNmiPending_x (v : Bool) : (s.setNmiPending v).x = s.x := rfl
@[simp] theorem State.setNmiPending_y (v : Bool) : (s.setNmiPending v).y = s.y := rfl
@[simp] theorem State.setNmiPending_sp (v : Bool) : (s.setNmiPending v).sp = s.sp := rfl
@[simp] theorem State.setNmiPending_pc (v : Bool) : (s.setNmiPending v).pc = s.pc := rfl
@[simp] theorem State.setNmiPending_flags (v : Bool) : (s.setNmiPending v).flags = s.flags := rfl
@[simp] theorem State.setNmiPending_mem (v : Bool) : (s.setNmiPending v).mem = s.mem := rfl
@[simp] theorem State.setNmiPending_nmiPending (v : Bool) : (s.setNmiPending v).nmiPending = v := rfl
@[simp] theorem State.setNmiPending_intLatch (v : Bool) : (s.setNmiPending v).intLatch = s.intLatch := rfl
@[simp] theorem State.setNmiPending_platform (v : Bool) : (s.setNmiPending v).platform = s.platform := rfl
@[simp] theorem State.setNmiPending_inputs (v : Bool) : (s.setNmiPending v).inputs = s.inputs := rfl
@[simp] theorem State.setNmiPending_steps (v : Bool) : (s.setNmiPending v).steps = s.steps := rfl
@[simp] theorem State.setNmiPending_deviceIn (v : Bool) : (s.setNmiPending v).deviceIn = s.deviceIn := rfl
@[simp] theorem State.setNmiPending_deviceReads (v : Bool) : (s.setNmiPending v).deviceReads = s.deviceReads := rfl
@[simp] theorem State.setNmiPending_trace (v : Bool) : (s.setNmiPending v).trace = s.trace := rfl
@[simp] theorem State.setNmiPending_cycles (v : Bool) : (s.setNmiPending v).cycles = s.cycles := rfl

@[simp] theorem State.setIntLatch_a (v : Option Interrupt) : (s.setIntLatch v).a = s.a := rfl
@[simp] theorem State.setIntLatch_x (v : Option Interrupt) : (s.setIntLatch v).x = s.x := rfl
@[simp] theorem State.setIntLatch_y (v : Option Interrupt) : (s.setIntLatch v).y = s.y := rfl
@[simp] theorem State.setIntLatch_sp (v : Option Interrupt) : (s.setIntLatch v).sp = s.sp := rfl
@[simp] theorem State.setIntLatch_pc (v : Option Interrupt) : (s.setIntLatch v).pc = s.pc := rfl
@[simp] theorem State.setIntLatch_flags (v : Option Interrupt) : (s.setIntLatch v).flags = s.flags := rfl
@[simp] theorem State.setIntLatch_mem (v : Option Interrupt) : (s.setIntLatch v).mem = s.mem := rfl
@[simp] theorem State.setIntLatch_nmiPending (v : Option Interrupt) : (s.setIntLatch v).nmiPending = s.nmiPending := rfl
@[simp] theorem State.setIntLatch_intLatch (v : Option Interrupt) : (s.setIntLatch v).intLatch = v := rfl
@[simp] theorem State.setIntLatch_platform (v : Option Interrupt) : (s.setIntLatch v).platform = s.platform := rfl
@[simp] theorem State.setIntLatch_inputs (v : Option Interrupt) : (s.setIntLatch v).inputs = s.inputs := rfl
@[simp] theorem State.setIntLatch_steps (v : Option Interrupt) : (s.setIntLatch v).steps = s.steps := rfl
@[simp] theorem State.setIntLatch_deviceIn (v : Option Interrupt) : (s.setIntLatch v).deviceIn = s.deviceIn := rfl
@[simp] theorem State.setIntLatch_deviceReads (v : Option Interrupt) : (s.setIntLatch v).deviceReads = s.deviceReads := rfl
@[simp] theorem State.setIntLatch_trace (v : Option Interrupt) : (s.setIntLatch v).trace = s.trace := rfl
@[simp] theorem State.setIntLatch_cycles (v : Option Interrupt) : (s.setIntLatch v).cycles = s.cycles := rfl

@[simp] theorem State.setPlatform_a (v : Platform) : (s.setPlatform v).a = s.a := rfl
@[simp] theorem State.setPlatform_x (v : Platform) : (s.setPlatform v).x = s.x := rfl
@[simp] theorem State.setPlatform_y (v : Platform) : (s.setPlatform v).y = s.y := rfl
@[simp] theorem State.setPlatform_sp (v : Platform) : (s.setPlatform v).sp = s.sp := rfl
@[simp] theorem State.setPlatform_pc (v : Platform) : (s.setPlatform v).pc = s.pc := rfl
@[simp] theorem State.setPlatform_flags (v : Platform) : (s.setPlatform v).flags = s.flags := rfl
@[simp] theorem State.setPlatform_mem (v : Platform) : (s.setPlatform v).mem = s.mem := rfl
@[simp] theorem State.setPlatform_nmiPending (v : Platform) : (s.setPlatform v).nmiPending = s.nmiPending := rfl
@[simp] theorem State.setPlatform_intLatch (v : Platform) : (s.setPlatform v).intLatch = s.intLatch := rfl
@[simp] theorem State.setPlatform_platform (v : Platform) : (s.setPlatform v).platform = v := rfl
@[simp] theorem State.setPlatform_inputs (v : Platform) : (s.setPlatform v).inputs = s.inputs := rfl
@[simp] theorem State.setPlatform_steps (v : Platform) : (s.setPlatform v).steps = s.steps := rfl
@[simp] theorem State.setPlatform_deviceIn (v : Platform) : (s.setPlatform v).deviceIn = s.deviceIn := rfl
@[simp] theorem State.setPlatform_deviceReads (v : Platform) : (s.setPlatform v).deviceReads = s.deviceReads := rfl
@[simp] theorem State.setPlatform_trace (v : Platform) : (s.setPlatform v).trace = s.trace := rfl
@[simp] theorem State.setPlatform_cycles (v : Platform) : (s.setPlatform v).cycles = s.cycles := rfl

@[simp] theorem State.setInputs_a (v : List Input) : (s.setInputs v).a = s.a := rfl
@[simp] theorem State.setInputs_x (v : List Input) : (s.setInputs v).x = s.x := rfl
@[simp] theorem State.setInputs_y (v : List Input) : (s.setInputs v).y = s.y := rfl
@[simp] theorem State.setInputs_sp (v : List Input) : (s.setInputs v).sp = s.sp := rfl
@[simp] theorem State.setInputs_pc (v : List Input) : (s.setInputs v).pc = s.pc := rfl
@[simp] theorem State.setInputs_flags (v : List Input) : (s.setInputs v).flags = s.flags := rfl
@[simp] theorem State.setInputs_mem (v : List Input) : (s.setInputs v).mem = s.mem := rfl
@[simp] theorem State.setInputs_nmiPending (v : List Input) : (s.setInputs v).nmiPending = s.nmiPending := rfl
@[simp] theorem State.setInputs_intLatch (v : List Input) : (s.setInputs v).intLatch = s.intLatch := rfl
@[simp] theorem State.setInputs_platform (v : List Input) : (s.setInputs v).platform = s.platform := rfl
@[simp] theorem State.setInputs_inputs (v : List Input) : (s.setInputs v).inputs = v := rfl
@[simp] theorem State.setInputs_steps (v : List Input) : (s.setInputs v).steps = s.steps := rfl
@[simp] theorem State.setInputs_deviceIn (v : List Input) : (s.setInputs v).deviceIn = s.deviceIn := rfl
@[simp] theorem State.setInputs_deviceReads (v : List Input) : (s.setInputs v).deviceReads = s.deviceReads := rfl
@[simp] theorem State.setInputs_trace (v : List Input) : (s.setInputs v).trace = s.trace := rfl
@[simp] theorem State.setInputs_cycles (v : List Input) : (s.setInputs v).cycles = s.cycles := rfl

@[simp] theorem State.countStep_a : s.countStep.a = s.a := rfl
@[simp] theorem State.countStep_x : s.countStep.x = s.x := rfl
@[simp] theorem State.countStep_y : s.countStep.y = s.y := rfl
@[simp] theorem State.countStep_sp : s.countStep.sp = s.sp := rfl
@[simp] theorem State.countStep_pc : s.countStep.pc = s.pc := rfl
@[simp] theorem State.countStep_flags : s.countStep.flags = s.flags := rfl
@[simp] theorem State.countStep_mem : s.countStep.mem = s.mem := rfl
@[simp] theorem State.countStep_nmiPending : s.countStep.nmiPending = s.nmiPending := rfl
@[simp] theorem State.countStep_intLatch : s.countStep.intLatch = s.intLatch := rfl
@[simp] theorem State.countStep_platform : s.countStep.platform = s.platform := rfl
@[simp] theorem State.countStep_inputs : s.countStep.inputs = s.inputs := rfl
@[simp] theorem State.countStep_steps : s.countStep.steps = s.steps + 1 := rfl
@[simp] theorem State.countStep_deviceIn : s.countStep.deviceIn = s.deviceIn := rfl
@[simp] theorem State.countStep_deviceReads : s.countStep.deviceReads = s.deviceReads := rfl
@[simp] theorem State.countStep_trace : s.countStep.trace = s.trace := rfl
@[simp] theorem State.countStep_cycles : s.countStep.cycles = s.cycles := rfl

@[simp] theorem State.setDeviceIn_a (v : List Byte) : (s.setDeviceIn v).a = s.a := rfl
@[simp] theorem State.setDeviceIn_x (v : List Byte) : (s.setDeviceIn v).x = s.x := rfl
@[simp] theorem State.setDeviceIn_y (v : List Byte) : (s.setDeviceIn v).y = s.y := rfl
@[simp] theorem State.setDeviceIn_sp (v : List Byte) : (s.setDeviceIn v).sp = s.sp := rfl
@[simp] theorem State.setDeviceIn_pc (v : List Byte) : (s.setDeviceIn v).pc = s.pc := rfl
@[simp] theorem State.setDeviceIn_flags (v : List Byte) : (s.setDeviceIn v).flags = s.flags := rfl
@[simp] theorem State.setDeviceIn_mem (v : List Byte) : (s.setDeviceIn v).mem = s.mem := rfl
@[simp] theorem State.setDeviceIn_nmiPending (v : List Byte) : (s.setDeviceIn v).nmiPending = s.nmiPending := rfl
@[simp] theorem State.setDeviceIn_intLatch (v : List Byte) : (s.setDeviceIn v).intLatch = s.intLatch := rfl
@[simp] theorem State.setDeviceIn_platform (v : List Byte) : (s.setDeviceIn v).platform = s.platform := rfl
@[simp] theorem State.setDeviceIn_inputs (v : List Byte) : (s.setDeviceIn v).inputs = s.inputs := rfl
@[simp] theorem State.setDeviceIn_steps (v : List Byte) : (s.setDeviceIn v).steps = s.steps := rfl
@[simp] theorem State.setDeviceIn_deviceIn (v : List Byte) : (s.setDeviceIn v).deviceIn = v := rfl
@[simp] theorem State.setDeviceIn_deviceReads (v : List Byte) : (s.setDeviceIn v).deviceReads = s.deviceReads := rfl
@[simp] theorem State.setDeviceIn_trace (v : List Byte) : (s.setDeviceIn v).trace = s.trace := rfl
@[simp] theorem State.setDeviceIn_cycles (v : List Byte) : (s.setDeviceIn v).cycles = s.cycles := rfl

@[simp] theorem State.setDeviceReads_a (v : Nat) : (s.setDeviceReads v).a = s.a := rfl
@[simp] theorem State.setDeviceReads_x (v : Nat) : (s.setDeviceReads v).x = s.x := rfl
@[simp] theorem State.setDeviceReads_y (v : Nat) : (s.setDeviceReads v).y = s.y := rfl
@[simp] theorem State.setDeviceReads_sp (v : Nat) : (s.setDeviceReads v).sp = s.sp := rfl
@[simp] theorem State.setDeviceReads_pc (v : Nat) : (s.setDeviceReads v).pc = s.pc := rfl
@[simp] theorem State.setDeviceReads_flags (v : Nat) : (s.setDeviceReads v).flags = s.flags := rfl
@[simp] theorem State.setDeviceReads_mem (v : Nat) : (s.setDeviceReads v).mem = s.mem := rfl
@[simp] theorem State.setDeviceReads_nmiPending (v : Nat) : (s.setDeviceReads v).nmiPending = s.nmiPending := rfl
@[simp] theorem State.setDeviceReads_intLatch (v : Nat) : (s.setDeviceReads v).intLatch = s.intLatch := rfl
@[simp] theorem State.setDeviceReads_platform (v : Nat) : (s.setDeviceReads v).platform = s.platform := rfl
@[simp] theorem State.setDeviceReads_inputs (v : Nat) : (s.setDeviceReads v).inputs = s.inputs := rfl
@[simp] theorem State.setDeviceReads_steps (v : Nat) : (s.setDeviceReads v).steps = s.steps := rfl
@[simp] theorem State.setDeviceReads_deviceIn (v : Nat) : (s.setDeviceReads v).deviceIn = s.deviceIn := rfl
@[simp] theorem State.setDeviceReads_deviceReads (v : Nat) : (s.setDeviceReads v).deviceReads = v := rfl
@[simp] theorem State.setDeviceReads_trace (v : Nat) : (s.setDeviceReads v).trace = s.trace := rfl
@[simp] theorem State.setDeviceReads_cycles (v : Nat) : (s.setDeviceReads v).cycles = s.cycles := rfl

@[simp] theorem State.record_a (v : Event) : (s.record v).a = s.a := rfl
@[simp] theorem State.record_x (v : Event) : (s.record v).x = s.x := rfl
@[simp] theorem State.record_y (v : Event) : (s.record v).y = s.y := rfl
@[simp] theorem State.record_sp (v : Event) : (s.record v).sp = s.sp := rfl
@[simp] theorem State.record_pc (v : Event) : (s.record v).pc = s.pc := rfl
@[simp] theorem State.record_flags (v : Event) : (s.record v).flags = s.flags := rfl
@[simp] theorem State.record_mem (v : Event) : (s.record v).mem = s.mem := rfl
@[simp] theorem State.record_nmiPending (v : Event) : (s.record v).nmiPending = s.nmiPending := rfl
@[simp] theorem State.record_intLatch (v : Event) : (s.record v).intLatch = s.intLatch := rfl
@[simp] theorem State.record_platform (v : Event) : (s.record v).platform = s.platform := rfl
@[simp] theorem State.record_inputs (v : Event) : (s.record v).inputs = s.inputs := rfl
@[simp] theorem State.record_steps (v : Event) : (s.record v).steps = s.steps := rfl
@[simp] theorem State.record_deviceIn (v : Event) : (s.record v).deviceIn = s.deviceIn := rfl
@[simp] theorem State.record_deviceReads (v : Event) : (s.record v).deviceReads = s.deviceReads := rfl
@[simp] theorem State.record_trace (v : Event) : (s.record v).trace = v :: s.trace := rfl
@[simp] theorem State.record_cycles (v : Event) : (s.record v).cycles = s.cycles := rfl

@[simp] theorem State.tick_a (v : Nat) : (s.tick v).a = s.a := rfl
@[simp] theorem State.tick_x (v : Nat) : (s.tick v).x = s.x := rfl
@[simp] theorem State.tick_y (v : Nat) : (s.tick v).y = s.y := rfl
@[simp] theorem State.tick_sp (v : Nat) : (s.tick v).sp = s.sp := rfl
@[simp] theorem State.tick_pc (v : Nat) : (s.tick v).pc = s.pc := rfl
@[simp] theorem State.tick_flags (v : Nat) : (s.tick v).flags = s.flags := rfl
@[simp] theorem State.tick_mem (v : Nat) : (s.tick v).mem = s.mem := rfl
@[simp] theorem State.tick_nmiPending (v : Nat) : (s.tick v).nmiPending = s.nmiPending := rfl
@[simp] theorem State.tick_intLatch (v : Nat) : (s.tick v).intLatch = s.intLatch := rfl
@[simp] theorem State.tick_platform (v : Nat) : (s.tick v).platform = s.platform := rfl
@[simp] theorem State.tick_inputs (v : Nat) : (s.tick v).inputs = s.inputs := rfl
@[simp] theorem State.tick_steps (v : Nat) : (s.tick v).steps = s.steps := rfl
@[simp] theorem State.tick_deviceIn (v : Nat) : (s.tick v).deviceIn = s.deviceIn := rfl
@[simp] theorem State.tick_deviceReads (v : Nat) : (s.tick v).deviceReads = s.deviceReads := rfl
@[simp] theorem State.tick_trace (v : Nat) : (s.tick v).trace = s.trace := rfl
@[simp] theorem State.tick_cycles (v : Nat) : (s.tick v).cycles = s.cycles + v := rfl

/-- Two states with the same fields are the same state. -/
theorem State.ext_fields {s t : State}
    (h0 : s.a = t.a) (h1 : s.x = t.x) (h2 : s.y = t.y) (h3 : s.sp = t.sp) (h4 : s.pc = t.pc) (h5 : s.flags =
    t.flags) (h6 : s.mem = t.mem) (h7 : s.nmiPending = t.nmiPending) (h8 : s.intLatch = t.intLatch) (h9 :
    s.platform = t.platform) (h10 : s.inputs = t.inputs) (h11 : s.steps = t.steps) (h12 : s.deviceIn =
    t.deviceIn) (h13 : s.deviceReads = t.deviceReads) (h14 : s.trace = t.trace) (h15 : s.cycles = t.cycles)
    : s = t := by
  cases s; cases t; simp_all

end Sys2Proof.Machine
end

