-- ==== Sys2Proof/Laws/Ops.lean ====
section
/-! SUPPORT. What each shared operation of Machine/Ops.lean can do, said once: if it answers, then what. A proof
about an instruction cites these and unfolds no operation. -/

namespace Sys2Proof.Machine

-- How operations are put together

/-- A sequence of two operations answers exactly where both do. -/
theorem access_bind_eq_ok {α β : Type} {x : Access α} {f : α → Access β} {b : β} :
    (x >>= f) = .ok b ↔ ∃ a, x = .ok a ∧ f a = .ok b := by
  cases x <;> simp [bind, Except.bind]

/-- A sequence of two operations is refused where the first is, or the second after it. -/
theorem access_bind_eq_error {α β : Type} {x : Access α} {f : α → Access β} {r : Refusal} :
    (x >>= f) = .error r ↔ x = .error r ∨ ∃ a, x = .ok a ∧ f a = .error r := by
  cases x <;> simp [bind, Except.bind]

@[simp] theorem access_pure_eq_ok {α : Type} {a b : α} : (pure a : Access α) = .ok b ↔ a = b := by
  simp [pure, Except.pure]

@[simp] theorem access_pure_ne_error {α : Type} {a : α} {r : Refusal} : ¬ (pure a : Access α) = .error r := by
  simp [pure, Except.pure]

@[simp] theorem access_ok_bind {α β : Type} (a : α) (f : α → Access β) :
    ((Except.ok a : Access α) >>= f) = f a := rfl

@[simp] theorem access_error_bind {α β : Type} (r : Refusal) (f : α → Access β) :
    ((Except.error r : Access α) >>= f) = .error r := rfl

@[simp] theorem access_pure_bind {α β : Type} (a : α) (f : α → Access β) :
    ((pure a : Access α) >>= f) = f a := rfl

@[simp] theorem toOutcome_ok (s : State) : toOutcome (.ok s) = .next s := rfl

@[simp] theorem toOutcome_error (r : Refusal) : toOutcome (.error r) = .refused r := rfl

@[simp] theorem toOutcome_eq_next {x : Access State} {t : State} : toOutcome x = .next t ↔ x = .ok t := by
  cases x <;> simp [toOutcome]

@[simp] theorem toOutcome_eq_refused {x : Access State} {r : Refusal} :
    toOutcome x = .refused r ↔ x = .error r := by
  cases x <;> simp [toOutcome]

-- What an access leaves of a state

@[simp] theorem State.withBus_self (s : State) : s.withBus s = s := rfl

@[simp] theorem State.withBus_withBus (s u v : State) : (s.withBus u).withBus v = s.withBus v := rfl

/-- An equation `u = s.withBus u`, used to rewrite `u` away in favour of `s`. -/
theorem State.withBus_of_eq {s u v : State} (h : u = s.withBus u) : u.withBus v = s.withBus v := by
  rw [h]; rfl

-- Kinds of addresses

theorem AllRam.kindAt {p : Platform} (h : AllRam p) (addr : Word) : Machine.kindAt p addr = .ram := h addr

theorem cellStore_ram {p : Platform} {m : Memory} {addr : Word} {v : Byte} (h : kindAt p addr = .ram) :
    cellStore p m addr v = m.write addr.toNat v := if_pos h

theorem cellStore_not_ram {p : Platform} {m : Memory} {addr : Word} {v : Byte} (h : kindAt p addr ≠ .ram) :
    cellStore p m addr v = m := if_neg h

/-- A write leaves the cell of every other address. -/
theorem cellAt_cellStore_other (p : Platform) (m : Memory) {addr other : Word} (v : Byte) (h : other ≠ addr) :
    cellAt (cellStore p m addr v) other = cellAt m other := by
  unfold cellStore
  split
  · exact Memory.read_write_other m v (fun e => h (BitVec.eq_of_toNat_eq e))
  · rfl

/-- A write to `ram` leaves its byte in the cell of a canonical memory. -/
theorem cellAt_cellStore_same {p : Platform} {m : Memory} {addr : Word} (v : Byte) (hm : m.wf = true)
    (h : kindAt p addr = .ram) : cellAt (cellStore p m addr v) addr = v := by
  rw [cellStore_ram h]
  exact Memory.read_write_same hm _ _

/-- A write keeps the canonical form. -/
theorem wf_cellStore {p : Platform} {m : Memory} {addr : Word} {v : Byte} (hm : m.wf = true) :
    (cellStore p m addr v).wf = true := by
  unfold cellStore
  split
  · exact Memory.wf_write v hm addr.isLt
  · exact hm

/-- A write changes no cell of an address that is not `ram`. -/
theorem cellAt_cellStore_not_ram {p : Platform} {m : Memory} {addr other : Word} {v : Byte}
    (h : kindAt p other ≠ .ram) : cellAt (cellStore p m addr v) other = cellAt m other := by
  by_cases e : other = addr
  · subst e; rw [cellStore_not_ram h]
  · exact cellAt_cellStore_other p m v e

-- MemRead, MemWrite and the extra reads

/-- The byte a MemRead gives, whatever the kind of the address. -/
theorem memRead_cases {addr : Word} {s u : State} {v : Byte} (h : memRead addr s = .ok (v, u)) :
    (holdsCell s.platform addr ∧ v = cellAt s.mem addr ∧ u = s.record (.read addr v)) ∨
    (kindAt s.platform addr = .device ∧ v = deviceByte s ∧ u = (afterDeviceRead s).record (.read addr v)) := by
  unfold memRead at h
  split at h <;> rename_i hk <;> simp only [Except.ok.injEq, Prod.mk.injEq, reduceCtorEq] at h <;>
    obtain ⟨rfl, rfl⟩ := h
  · exact .inl ⟨.inl hk, rfl, rfl⟩
  · exact .inl ⟨.inr hk, rfl, rfl⟩
  · exact .inr ⟨hk, rfl, rfl⟩

/-- A MemRead changes the bus history and nothing else, and records itself. -/
theorem memRead_frame {addr : Word} {s u : State} {v : Byte} (h : memRead addr s = .ok (v, u)) :
    s.withBus u = u ∧ u.trace = .read addr v :: s.trace := by
  rcases memRead_cases h with ⟨_, rfl, rfl⟩ | ⟨_, rfl, rfl⟩ <;> exact ⟨rfl, rfl⟩

/-- A MemRead of `ram` or `rom`. -/
theorem memRead_cell {addr : Word} {s : State} (h : holdsCell s.platform addr) :
    memRead addr s = .ok (cellAt s.mem addr, s.record (.read addr (cellAt s.mem addr))) := by
  unfold memRead
  rcases h with h | h <;> rw [h] <;> rfl

/-- A MemRead is refused for one reason only. -/
theorem memRead_error {addr : Word} {s : State} {r : Refusal} :
    memRead addr s = .error r ↔ kindAt s.platform addr = .unmapped ∧ r = .platformAccess addr := by
  unfold memRead
  split <;> rename_i hk <;> simp [hk, @eq_comm _ r]

/-- A MemRead depends on the platform, memory and the bus history alone. -/
theorem memRead_transport {addr : Word} {s t u : State} {v : Byte} (h : memRead addr s = .ok (v, u))
    (hp : t.platform = s.platform) (hm : t.mem = s.mem) (hd : t.deviceIn = s.deviceIn)
    (hr : t.deviceReads = s.deviceReads) (ht : t.trace = s.trace) : memRead addr t = .ok (v, t.withBus u) := by
  obtain ⟨⟩ := s
  obtain ⟨⟩ := t
  simp only at hp hm hd hr ht
  subst hp hm hd hr ht
  unfold memRead at h ⊢
  simp only at h ⊢
  split at h <;> simp at h <;> obtain ⟨rfl, rfl⟩ := h <;> rfl

/-- A MemWrite answers exactly at a mapped address, and then stores and records. -/
theorem memWrite_eq_ok {addr : Word} {v : Byte} {s u : State} :
    memWrite addr v s = .ok u ↔ kindAt s.platform addr ≠ .unmapped ∧
      u = (s.setMem (cellStore s.platform s.mem addr v)).record (.write addr v) := by
  unfold memWrite cellStore
  split <;> rename_i hk <;> simp [hk, @eq_comm _ u, State.setMem]

theorem memWrite_ok {addr : Word} (v : Byte) {s : State} (h : kindAt s.platform addr ≠ .unmapped) :
    memWrite addr v s = .ok ((s.setMem (cellStore s.platform s.mem addr v)).record (.write addr v)) :=
  memWrite_eq_ok.mpr ⟨h, rfl⟩

theorem memWrite_error {addr : Word} {v : Byte} {s : State} {r : Refusal} :
    memWrite addr v s = .error r ↔ kindAt s.platform addr = .unmapped ∧ r = .platformAccess addr := by
  unfold memWrite
  split <;> rename_i hk <;> simp [hk, @eq_comm _ r]

@[simp] theorem extraRead_eq_ok {addr : Word} {s : State} {u : Unit} :
    extraRead addr s = .ok u ↔ kindAt s.platform addr ≠ .device := by
  unfold extraRead
  split <;> simp_all

theorem extraRead_ok {addr : Word} {s : State} (h : kindAt s.platform addr ≠ .device) :
    extraRead addr s = .ok () := if_neg h

theorem extraRead_error {addr : Word} {s : State} {r : Refusal} :
    extraRead addr s = .error r ↔ kindAt s.platform addr = .device ∧ r = .platformAccess addr := by
  unfold extraRead
  split <;> rename_i hk <;> simp [hk, @eq_comm _ r]

-- Two reads

/-- The word two reads give, low byte first. -/
theorem readPair_eq_ok {lo hi w : Word} {s t : State} : readPair lo hi s = .ok (w, t) ↔
    ∃ b u c, memRead lo s = .ok (b, u) ∧ memRead hi u = .ok (c, t) ∧ w = wordOf c b := by
  simp only [readPair, access_bind_eq_ok, Prod.exists, access_pure_eq_ok, Prod.mk.injEq]
  constructor
  · rintro ⟨b, u, h1, c, t', h2, rfl, rfl⟩
    exact ⟨b, u, c, h1, h2, rfl⟩
  · rintro ⟨b, u, c, h1, h2, rfl⟩
    exact ⟨b, u, h1, c, t, h2, rfl, rfl⟩

theorem readPair_frame {lo hi w : Word} {s t : State} (h : readPair lo hi s = .ok (w, t)) :
    s.withBus t = t ∧ ∃ b c, t.trace = .read hi c :: .read lo b :: s.trace := by
  obtain ⟨b, u, c, h1, h2, -⟩ := readPair_eq_ok.mp h
  obtain ⟨f1, t1⟩ := memRead_frame h1
  obtain ⟨f2, t2⟩ := memRead_frame h2
  exact ⟨by rw [← f2, ← f1]; rfl, b, c, by rw [t2, t1]⟩

theorem read16_frame {addr w : Word} {s t : State} (h : read16 addr s = .ok (w, t)) :
    s.withBus t = t ∧ ∃ b c, t.trace = .read (addr + 1) c :: .read addr b :: s.trace :=
  readPair_frame h

-- The stack

theorem stackAddr_injective {p q : Byte} (h : stackAddr p = stackAddr q) : p = q := by
  unfold stackAddr at h
  bv_omega

/-- A push answers exactly where its stack cell is mapped. -/
theorem push_eq_ok {v : Byte} {s t : State} : push v s = .ok t ↔
    kindAt s.platform (stackAddr s.sp) ≠ .unmapped ∧
    t = ((s.setMem (cellStore s.platform s.mem (stackAddr s.sp) v)).record
      (.write (stackAddr s.sp) v)).setSp (s.sp - 1) := by
  simp only [push, access_bind_eq_ok, memWrite_eq_ok, access_pure_eq_ok]
  constructor
  · rintro ⟨u, ⟨h, rfl⟩, rfl⟩
    exact ⟨h, rfl⟩
  · rintro ⟨h, rfl⟩
    exact ⟨_, ⟨h, rfl⟩, rfl⟩

theorem pull_frame {v : Byte} {s t : State} (h : pull s = .ok (v, t)) :
    t = (s.withBus t).setSp (s.sp + 1) ∧ t.trace = .read (stackAddr (s.sp + 1)) v :: s.trace := by
  obtain ⟨f, tr⟩ := memRead_frame h
  exact ⟨f.symm, tr⟩

/-- A pull is the read of the byte above the stack pointer. -/
theorem pull_of_memRead {v : Byte} {s u : State} (h : memRead (stackAddr (s.sp + 1)) s = .ok (v, u)) :
    pull s = .ok (v, (s.withBus u).setSp (s.sp + 1)) := by
  have := memRead_transport (t := s.setSp (s.sp + 1)) h rfl rfl rfl rfl rfl
  exact this

/-- A word is pushed high byte first. -/
theorem pushWord_eq_ok {w : Word} {s t : State} : pushWord w s = .ok t ↔
    kindAt s.platform (stackAddr s.sp) ≠ .unmapped ∧ kindAt s.platform (stackAddr (s.sp - 1)) ≠ .unmapped ∧
    t = { s with
      mem := cellStore s.platform (cellStore s.platform s.mem (stackAddr s.sp) (hi8 w)) (stackAddr (s.sp - 1)) (lo8 w),
      trace := .write (stackAddr (s.sp - 1)) (lo8 w) :: .write (stackAddr s.sp) (hi8 w) :: s.trace,
      sp := s.sp - 2 } := by
  have e : s.sp - 1 - 1 = s.sp - 2 := by bv_omega
  simp only [pushWord, access_bind_eq_ok, push_eq_ok]
  constructor
  · rintro ⟨u, ⟨h, rfl⟩, h2, rfl⟩
    refine ⟨h, h2, ?_⟩
    rewrite [← e]
    simp only [State.setMem, State.record, State.setSp]
  · rintro ⟨h, h2, rfl⟩
    refine ⟨_, ⟨h, rfl⟩, h2, ?_⟩
    rewrite [← e]
    simp only [State.setMem, State.record, State.setSp]

/-- A word is pulled low byte first. -/
theorem pullWord_of_memRead {lo hi : Byte} {s u1 u2 : State}
    (h1 : memRead (stackAddr (s.sp + 1)) s = .ok (lo, u1))
    (h2 : memRead (stackAddr (s.sp + 2)) u1 = .ok (hi, u2)) :
    pullWord s = .ok (wordOf hi lo, (s.withBus u2).setSp (s.sp + 2)) := by
  have e : s.sp + 1 + 1 = s.sp + 2 := by bv_omega
  obtain ⟨f1, -⟩ := memRead_frame h1
  simp only [pullWord, pull_of_memRead h1, access_ok_bind]
  have h3 : memRead (stackAddr (s.sp + 1 + 1)) ((s.withBus u1).setSp (s.sp + 1)) =
      .ok (hi, ((s.withBus u1).setSp (s.sp + 1)).withBus u2) := by
    have h := memRead_transport (t := (s.withBus u1).setSp (s.sp + 1)) h2 (by rw [← f1]; rfl)
      (by rw [← f1]; rfl) rfl rfl rfl
    rw [e]
    exact h
  have h4 := pull_of_memRead (s := (s.withBus u1).setSp (s.sp + 1)) h3
  rw [h4, access_ok_bind, ← e]
  rfl

theorem pullWord_frame {w : Word} {s t : State} (h : pullWord s = .ok (w, t)) :
    t = (s.withBus t).setSp (s.sp + 2) ∧ ∃ b c, w = wordOf c b ∧
      t.trace = .read (stackAddr (s.sp + 2)) c :: .read (stackAddr (s.sp + 1)) b :: s.trace := by
  have e : s.sp + 1 + 1 = s.sp + 2 := by bv_omega
  simp only [pullWord, access_bind_eq_ok, Prod.exists, access_pure_eq_ok, Prod.mk.injEq] at h
  obtain ⟨b, u, h1, c, t', h2, rfl, rfl⟩ := h
  obtain ⟨f1, t1⟩ := pull_frame h1
  obtain ⟨f2, t2⟩ := pull_frame h2
  have hsp : u.sp = s.sp + 1 := by rw [f1]; rfl
  refine ⟨?_, b, c, rfl, ?_⟩
  · rw [f2, hsp, e, f1]; rfl
  · rw [t2, t1, hsp, e]

-- Interrupts

/-- Everything the shared interrupt entry can do (47_jump.md R199, 60_exceptions.md R250): the three stack cells
are mapped and written, and what follows is the read of the vector. -/
theorem takeInterrupt_eq_ok {ret vector : Word} {b : Bool} {s t : State} :
    takeInterrupt ret b vector s = .ok t ↔
    kindAt s.platform (stackAddr s.sp) ≠ .unmapped ∧ kindAt s.platform (stackAddr (s.sp - 1)) ≠ .unmapped ∧
    kindAt s.platform (stackAddr (s.sp - 2)) ≠ .unmapped ∧
    ∃ target u, t = u.setPc target ∧ read16 vector { s with
      sp := s.sp - 3,
      mem := cellStore s.platform (cellStore s.platform (cellStore s.platform s.mem (stackAddr s.sp) (hi8 ret))
        (stackAddr (s.sp - 1)) (lo8 ret)) (stackAddr (s.sp - 2)) (packP b s.flags),
      trace := .write (stackAddr (s.sp - 2)) (packP b s.flags) :: .write (stackAddr (s.sp - 1)) (lo8 ret)
        :: .write (stackAddr s.sp) (hi8 ret) :: s.trace,
      flags := s.flags.disableIrq } = .ok (target, u) := by
  have e : s.sp - 2 - 1 = s.sp - 3 := by bv_omega
  simp only [takeInterrupt, access_bind_eq_ok, pushWord_eq_ok, push_eq_ok, Prod.exists, access_pure_eq_ok]
  constructor
  · rintro ⟨u1, ⟨h0, h1, rfl⟩, u2, ⟨h2, rfl⟩, target, u, h3, rfl⟩
    refine ⟨h0, h1, h2, target, u, rfl, ?_⟩
    rewrite [← h3, ← e]
    simp only [State.setMem, State.record, State.setSp, State.setFlags]
  · rintro ⟨h0, h1, h2, target, u, rfl, h3⟩
    refine ⟨_, ⟨h0, h1, rfl⟩, _, ⟨h2, rfl⟩, target, u, ?_, rfl⟩
    rewrite [← h3, ← e]
    simp only [State.setMem, State.record, State.setSp, State.setFlags]

/-- Everything the shared return from an interrupt can do (47_jump.md R200). -/
theorem returnFromInterrupt_eq_ok {s t : State} : returnFromInterrupt s = .ok t ↔
    ∃ p u target u', pull s = .ok (p, u) ∧ pullWord (u.setFlags (unpackP p)) = .ok (target, u') ∧
      t = u'.setPc target := by
  simp only [returnFromInterrupt, access_bind_eq_ok, Prod.exists, access_pure_eq_ok]
  constructor
  · rintro ⟨p, u, h1, target, u', h2, rfl⟩
    exact ⟨p, u, target, u', h1, h2, rfl⟩
  · rintro ⟨p, u, target, u', h1, h2, rfl⟩
    exact ⟨p, u, h1, target, u', h2, rfl⟩

end Sys2Proof.Machine
end

