-- ==== Sys2Proof/Laws/Operands.lean ====
section
/-! SUPPORT. What the operand forms and the shared instruction shapes of Machine/Operands.lean can do, said once. -/

namespace Sys2Proof.Machine

theorem readPointer_frame {p : Byte} {w : Word} {s t : State} (h : readPointer p s = .ok (w, t)) :
    s.withBus t = t ∧ ∃ b c, t.trace = .read (zeroPage (p + 1)) c :: .read (zeroPage p) b :: s.trace :=
  readPair_frame h

/-- Everything adding an index to a word can do: the discarded read may be refused, no state changes. -/
theorem indexed_eq_ok {kind : AccessKind} {base : Word} {index : Byte} {s : State} {e : Effective} :
    indexed kind base index s = .ok e ↔
    (kind ≠ .read ∨ pageCrossed base (base + index.setWidth 16) = true →
      kindAt s.platform (wordOf (hi8 base) (lo8 (base + index.setWidth 16))) ≠ .device) ∧
    e = ⟨base + index.setWidth 16, pageCrossed base (base + index.setWidth 16), s⟩ := by
  unfold indexed
  dsimp only
  split <;> rename_i hk
  · simp only [access_bind_eq_ok, extraRead_eq_ok, access_pure_eq_ok, hk, exists_and_left, exists_const,
      forall_const, @eq_comm _ e]
  · simp only [access_pure_eq_ok, hk, false_implies, true_and, @eq_comm _ e]

/-- Resolving an operand changes the bus history and nothing else, and the history only grows. -/
theorem effective_frame {kind : AccessKind} {m : MemMode} {s : State} {e : Effective}
    (h : effective kind m s = .ok e) :
    s.withBus e.state = e.state ∧ ∃ new : List Event, e.state.trace = new ++ s.trace := by
  cases m with
  | zp b => simp only [effective, access_pure_eq_ok] at h; subst h; exact ⟨rfl, [], rfl⟩
  | abs w => simp only [effective, access_pure_eq_ok] at h; subst h; exact ⟨rfl, [], rfl⟩
  | zpx b =>
    simp only [effective, access_bind_eq_ok, access_pure_eq_ok] at h
    obtain ⟨_, _, rfl⟩ := h; exact ⟨rfl, [], rfl⟩
  | zpy b =>
    simp only [effective, access_bind_eq_ok, access_pure_eq_ok] at h
    obtain ⟨_, _, rfl⟩ := h; exact ⟨rfl, [], rfl⟩
  | absx w => obtain ⟨_, rfl⟩ := indexed_eq_ok.mp h; exact ⟨rfl, [], rfl⟩
  | absy w => obtain ⟨_, rfl⟩ := indexed_eq_ok.mp h; exact ⟨rfl, [], rfl⟩
  | indx b =>
    simp only [effective, access_bind_eq_ok, access_pure_eq_ok, Prod.exists] at h
    obtain ⟨_, _, w, u, h1, rfl⟩ := h
    obtain ⟨f, b, c, t⟩ := readPointer_frame h1
    exact ⟨f, [_, _], t⟩
  | indy b =>
    simp only [effective, access_bind_eq_ok, Prod.exists] at h
    obtain ⟨w, u, h1, h2⟩ := h
    obtain ⟨_, rfl⟩ := indexed_eq_ok.mp h2
    obtain ⟨f, b, c, t⟩ := readPointer_frame h1
    exact ⟨f, [_, _], t⟩

theorem effective_platform {kind : AccessKind} {m : MemMode} {s : State} {e : Effective}
    (h : effective kind m s = .ok e) : e.state.platform = s.platform := by rw [← (effective_frame h).1]; rfl

theorem effective_mem {kind : AccessKind} {m : MemMode} {s : State} {e : Effective}
    (h : effective kind m s = .ok e) : e.state.mem = s.mem := by rw [← (effective_frame h).1]; rfl

/-- Where every address is `ram` every operand form resolves. -/
theorem effective_allRam {s : State} (h : AllRam s.platform) (kind : AccessKind) (m : MemMode) :
    ∃ e, effective kind m s = .ok e := by
  have hx : ∀ addr, extraRead addr s = .ok () := fun addr => extraRead_ok (by rw [h addr]; decide)
  have hi : ∀ (u : State) w i, u.platform = s.platform → ∃ e, indexed kind w i u = .ok e := fun u w i hp =>
    ⟨_, indexed_eq_ok.mpr ⟨fun _ => by rw [hp, h]; decide, rfl⟩⟩
  have hr : ∀ p, ∃ w u, readPointer p s = .ok (w, u) := fun p =>
    ⟨_, _, readPair_eq_ok.mpr ⟨_, _, _, memRead_cell (.inl (h _)), memRead_cell (.inl (h _)), rfl⟩⟩
  cases m with
  | zp b => exact ⟨_, rfl⟩
  | abs w => exact ⟨_, rfl⟩
  | zpx b => simp only [effective, hx]; exact ⟨_, rfl⟩
  | zpy b => simp only [effective, hx]; exact ⟨_, rfl⟩
  | absx w => exact hi s w s.x rfl
  | absy w => exact hi s w s.y rfl
  | indx b =>
    obtain ⟨w, u, h1⟩ := hr (b + s.x)
    simp only [effective, hx, access_ok_bind, h1]; exact ⟨_, rfl⟩
  | indy b =>
    obtain ⟨w, u, h1⟩ := hr b
    simp only [effective, h1, access_ok_bind]
    exact hi u w u.y (by rw [← (readPointer_frame h1).1]; rfl)

/-- The operand byte of an immediate form. -/
theorem withSource_imm (b : Byte) (f : Byte → State → State) (s : State) :
    withSource (.imm b) f s = .ok (advance 2 (f b (s.tick 2))) := rfl

/-- The operand byte of a memory form whose address resolves and is readable. -/
theorem withSource_mem {m : MemMode} {s u : State} {e : Effective} {v : Byte} (f : Byte → State → State)
    (h1 : effective .read m s = .ok e) (h2 : memRead e.addr e.state = .ok (v, u)) :
    withSource (.mem m) f s = .ok (advance (memLength m) (f v (u.tick (readCycles e.crossed m)))) := by
  simp only [withSource, readSource, h1, h2, access_ok_bind, access_pure_bind]
  rfl

/-- Everything an instruction of the read kind can do: apply `f` to a byte and a state that differs from `s` in the
bus history and the cycle counter alone, and advance. -/
theorem withSource_inv {src : Source} {f : Byte → State → State} {s t : State} (h : withSource src f s = .ok t) :
    ∃ (v : Byte) (u : State) (n : Nat), t = advance (sourceLength src) (f v ((s.withBus u).tick n)) ∧ 2 ≤ n ∧
      ∃ new : List Event, u.trace = new ++ s.trace := by
  cases src with
  | imm b =>
    rw [withSource_imm] at h
    injection h with h
    exact ⟨b, s, 2, h.symm, le_refl 2, [], rfl⟩
  | mem m =>
    simp only [withSource, readSource, access_bind_eq_ok, access_pure_eq_ok, Prod.exists, Prod.mk.injEq] at h
    obtain ⟨v, u', ⟨e, h1, v', u, h2, rfl, rfl⟩, rfl⟩ := h
    obtain ⟨f1, n1, t1⟩ := effective_frame h1
    obtain ⟨f2, t2⟩ := memRead_frame h2
    have hu : s.withBus u = u := by rw [← f2, ← f1]; rfl
    refine ⟨v', u, readCycles e.crossed m, by rw [hu], ?_, _ :: n1, by rw [t2, t1]; rfl⟩
    cases m <;> simp [readCycles] <;> omega

/-- Everything an instruction of the write kind can do. -/
theorem storeByte_eq_ok {m : MemMode} {v : Byte} {s t : State} : storeByte m v s = .ok t ↔
    ∃ e, effective .write m s = .ok e ∧ kindAt s.platform e.addr ≠ .unmapped ∧
      t = { s.withBus e.state with
        mem := cellStore s.platform s.mem e.addr v,
        trace := .write e.addr v :: e.state.trace,
        pc := s.pc + BitVec.ofNat 16 (memLength m),
        cycles := s.cycles + writeCycles m } := by
  simp only [storeByte, access_bind_eq_ok, memWrite_eq_ok, access_pure_eq_ok]
  constructor
  · rintro ⟨e, h1, u, ⟨h2, rfl⟩, rfl⟩
    obtain ⟨f, -⟩ := effective_frame h1
    rw [effective_platform h1] at h2
    refine ⟨e, h1, h2, ?_⟩
    rw [← f]
    rfl
  · rintro ⟨e, h1, h2, rfl⟩
    obtain ⟨f, -⟩ := effective_frame h1
    refine ⟨e, h1, _, ⟨by rw [effective_platform h1]; exact h2, rfl⟩, ?_⟩
    rw [← f]
    rfl

/-- Everything a read-modify-write instruction on memory can do: read, write back, write. -/
theorem modifyMem_eq_ok {m : MemMode} {f : ByteOp} {s t : State} : modifyMem m f s = .ok t ↔
    ∃ e v u, effective .rmw m s = .ok e ∧ memRead e.addr e.state = .ok (v, u) ∧
      t = { s.withBus u with
        mem := cellStore s.platform (cellStore s.platform s.mem e.addr v) e.addr (f v s.flags).1,
        trace := .write e.addr (f v s.flags).1 :: .write e.addr v :: u.trace,
        flags := (f v s.flags).2,
        pc := s.pc + BitVec.ofNat 16 (memLength m),
        cycles := s.cycles + rmwCycles m } := by
  have key : ∀ {e v u}, effective .rmw m s = .ok e → memRead e.addr e.state = .ok (v, u) →
      u = s.withBus u ∧ kindAt s.platform e.addr ≠ .unmapped := by
    intro e v u h1 h2
    obtain ⟨f1, -⟩ := effective_frame h1
    obtain ⟨f2, -⟩ := memRead_frame h2
    refine ⟨by rw [← f2, ← f1]; rfl, ?_⟩
    rw [← effective_platform h1]
    intro h
    rw [memRead_error.mpr ⟨h, rfl⟩] at h2
    exact absurd h2 (by simp)
  simp only [modifyMem, access_bind_eq_ok, memWrite_eq_ok, access_pure_eq_ok, Prod.exists]
  constructor
  · rintro ⟨e, h1, v, u, h2, u1, ⟨h3, rfl⟩, u2, ⟨h4, rfl⟩, rfl⟩
    refine ⟨e, v, u, h1, h2, ?_⟩
    obtain ⟨w, rfl⟩ : ∃ w, u = s.withBus w := ⟨u, (key h1 h2).1⟩
    simp only [advance, State.withBus, State.setMem, State.record, State.setFlags, State.setPc, State.tick]
  · rintro ⟨e, v, u, h1, h2, rfl⟩
    have hk := (key h1 h2).2
    obtain ⟨w, rfl⟩ : ∃ w, u = s.withBus w := ⟨u, (key h1 h2).1⟩
    refine ⟨e, h1, v, _, h2, _, ⟨hk, rfl⟩, _, ⟨hk, rfl⟩, ?_⟩
    simp only [advance, State.withBus, State.setMem, State.record, State.setFlags, State.setPc, State.tick]

/-- Everything a one-byte instruction without a data access can do. -/
theorem implied_eq_ok {f : State → State} {s t : State} : implied f s = .ok t ↔
    kindAt s.platform (s.pc + 1) ≠ .device ∧ t = advance 1 ((f s).tick 2) := by
  simp only [implied, access_bind_eq_ok, extraRead_eq_ok, access_pure_eq_ok, exists_and_left, exists_const,
    @eq_comm _ t]

/-- Everything Accumulator mode can do. -/
theorem modifyA_eq_ok {f : ByteOp} {s t : State} : modifyA f s = .ok t ↔
    kindAt s.platform (s.pc + 1) ≠ .device ∧ t = { s with
      a := (f s.a s.flags).1,
      flags := (f s.a s.flags).2,
      pc := s.pc + 1,
      cycles := s.cycles + 2 } := implied_eq_ok

end Sys2Proof.Machine
end

