-- ==== Sys2Proof/Laws/Dispatch.lean ====
section
/-! SUPPORT. What each mnemonic does as a function of its operand form, so that a statement about a mnemonic needs no
case split over all 151 constructors. -/

namespace Sys2Proof.Machine

/-- An operation over the operand byte. -/
def onSource (a : Operand) (f : Source → Access State) : Option (Access State) :=
  match a with
  | .src src => some (f src)
  | .imp | .acc | .rel _ | .ind _ => none

/-- An operation over a memory mode. -/
def onMem (a : Operand) (f : MemMode → Access State) : Option (Access State) :=
  match a with
  | .src (.mem m) => some (f m)
  | .src (.imm _) | .imp | .acc | .rel _ | .ind _ => none

/-- A shift or rotate: on A or on memory. -/
def onAccOrMem (a : Operand) (f : ByteOp) (s : State) : Option (Access State) :=
  match a with
  | .acc => some (modifyA f s)
  | .src (.mem m) => some (modifyMem m f s)
  | .src (.imm _) | .imp | .rel _ | .ind _ => none

/-- An operation without an operand. -/
def onImplied (a : Operand) (x : Access State) : Option (Access State) :=
  match a with
  | .imp => some x
  | .acc | .src _ | .rel _ | .ind _ => none

/-- A branch with its condition. -/
def onRel (a : Operand) (cond : Bool) (s : State) : Option (Access State) :=
  match a with
  | .rel offset => some (branch cond offset s)
  | .imp | .acc | .src _ | .ind _ => none

/-- The two forms of JMP, and the one of JSR. -/
def onTarget (a : Operand) (abs : Word → Access State) (ind : Word → Option (Access State)) :
    Option (Access State) :=
  match a with
  | .src (.mem (.abs w)) => some (abs w)
  | .ind p => ind p
  | .src _ | .imp | .acc | .rel _ => none

/-- What a mnemonic with an operand form does; none where the opcode map has no such form. -/
def meaningOf (o : Op) (a : Operand) (s : State) : Option (Access State) :=
  match o with
  | .lda => onSource a fun src => loadA src s
  | .ldx => onSource a fun src => loadX src s
  | .ldy => onSource a fun src => loadY src s
  | .sta => onMem a fun m => storeA m s
  | .stx => onMem a fun m => storeX m s
  | .sty => onMem a fun m => storeY m s
  | .tax => onImplied a (implied (fun s => setNZ s.a (s.setX s.a)) s)
  | .txa => onImplied a (implied (fun s => setNZ s.x (s.setA s.x)) s)
  | .tay => onImplied a (implied (fun s => setNZ s.a (s.setY s.a)) s)
  | .tya => onImplied a (implied (fun s => setNZ s.y (s.setA s.y)) s)
  | .adc => onSource a fun src => addCarry src s
  | .sbc => onSource a fun src => subtractCarry src s
  | .inc => onMem a fun m => modifyMem m incByte s
  | .dec => onMem a fun m => modifyMem m decByte s
  | .inx => onImplied a (implied (fun s => stepX incByte s) s)
  | .dex => onImplied a (implied (fun s => stepX decByte s) s)
  | .iny => onImplied a (implied (fun s => stepY incByte s) s)
  | .dey => onImplied a (implied (fun s => stepY decByte s) s)
  | .asl => onAccOrMem a aslByte s
  | .lsr => onAccOrMem a lsrByte s
  | .rol => onAccOrMem a rolByte s
  | .ror => onAccOrMem a rorByte s
  | .and => onSource a fun src => andA src s
  | .ora => onSource a fun src => orA src s
  | .eor => onSource a fun src => eorA src s
  | .bit => onMem a fun m => bitTest (.mem m) s
  | .cmp => onSource a fun src => compareWith (fun s => s.a) src s
  | .cpx => onSource a fun src => compareWith (fun s => s.x) src s
  | .cpy => onSource a fun src => compareWith (fun s => s.y) src s
  | .bcc => onRel a (!s.flags.c) s
  | .bcs => onRel a s.flags.c s
  | .beq => onRel a s.flags.z s
  | .bne => onRel a (!s.flags.z) s
  | .bpl => onRel a (!s.flags.n) s
  | .bmi => onRel a s.flags.n s
  | .bvc => onRel a (!s.flags.v) s
  | .bvs => onRel a s.flags.v s
  | .jmp => onTarget a (fun w => .ok ((s.setPc w).tick 3)) fun p => some (jumpIndirect p s)
  | .jsr => onTarget a (fun w => jumpSubroutine w s) fun _ => none
  | .rts => onImplied a (returnSubroutine s)
  | .brk => onImplied a (breakInterrupt s)
  | .rti => onImplied a (returnInterrupt s)
  | .pha => onImplied a (pushRegister (fun s => s.a) s)
  | .pla => onImplied a (pullRegister (fun v s => setNZ v (s.setA v)) s)
  | .php => onImplied a (pushRegister (fun s => packP true s.flags) s)
  | .plp => onImplied a (pullRegister (fun v s => s.setFlags (unpackP v)) s)
  | .txs => onImplied a (implied (fun s => s.setSp s.x) s)
  | .tsx => onImplied a (implied (fun s => setNZ s.sp (s.setX s.sp)) s)
  | .clc => onImplied a (implied (fun s => s.setFlags { s.flags with c := false }) s)
  | .sec => onImplied a (implied (fun s => s.setFlags { s.flags with c := true }) s)
  | .cli => onImplied a (implied (fun s => s.setFlags { s.flags with i := false }) s)
  | .sei => onImplied a (implied (fun s => s.setFlags { s.flags with i := true }) s)
  | .cld => onImplied a (implied (fun s => s.setFlags { s.flags with d := false }) s)
  | .sed => onImplied a (implied (fun s => s.setFlags { s.flags with d := true }) s)
  | .clv => onImplied a (implied (fun s => s.setFlags { s.flags with v := false }) s)
  | .nop => onImplied a (implied (fun s => s) s)

/-- Every constructor does what its mnemonic does with its operand form. -/
theorem meaningOf_eq_some (i : Instr) (s : State) : ∃ x, meaningOf i.op i.operand s = some x ∧
    exec i s = toOutcome x := by
  cases i <;> exact ⟨_, rfl, rfl⟩

theorem exec_of_meaning {i : Instr} {s : State} {x : Access State} (h : meaningOf i.op i.operand s = some x) :
    exec i s = toOutcome x := by
  obtain ⟨y, h1, h2⟩ := meaningOf_eq_some i s
  rw [h2, Option.some.inj (h1.symm.trans h)]

/-- A meaning that gives no next state is a refusal. -/
theorem exec_eq_next_or_refused (i : Instr) (s : State) :
    (∃ t, exec i s = .next t) ∨ ∃ r, exec i s = .refused r := by
  obtain ⟨x, -, h⟩ := meaningOf_eq_some i s
  rw [h]
  cases x with
  | ok t => exact .inl ⟨t, rfl⟩
  | error r => exact .inr ⟨r, rfl⟩

end Sys2Proof.Machine
end

