-- ==== Sys2Proof/Laws/Frame.lean ====
section
/-! SUPPORT. What no instruction does, said once for all of them: `Keeps s t` is what every operation, every meaning,
the interrupt sequence and reset leave of a state. -/

namespace Sys2Proof.Machine

/-- What every operation leaves: the parameters, the inputs and their count, the cells that are not `ram`, the canonical form of
memory, and the event history, which only grows. -/
structure Keeps (s t : State) : Prop where
  platform : t.platform = s.platform
  inputs : t.inputs = s.inputs
  steps : t.steps = s.steps
  cells : ∀ addr : Word, kindAt s.platform addr ≠ .ram → cellAt t.mem addr = cellAt s.mem addr
  canonical : s.mem.wf = true → t.mem.wf = true
  history : ∃ new : List Event, t.trace = new ++ s.trace

theorem Keeps.refl (s : State) : Keeps s s := ⟨rfl, rfl, rfl, fun _ _ => rfl, id, [], rfl⟩

theorem Keeps.trans {s t u : State} (h : Keeps s t) (k : Keeps t u) : Keeps s u where
  platform := k.platform.trans h.platform
  inputs := k.inputs.trans h.inputs
  steps := k.steps.trans h.steps
  cells addr ha := (k.cells addr (by rw [h.platform]; exact ha)).trans (h.cells addr ha)
  canonical hm := k.canonical (h.canonical hm)
  history := by
    obtain ⟨a, ha⟩ := h.history
    obtain ⟨b, hb⟩ := k.history
    exact ⟨b ++ a, by rw [hb, ha, List.append_assoc]⟩

/-- A state with the same parameters, inputs, memory and history keeps everything. -/
theorem Keeps.of_eq {s t : State} (hp : t.platform = s.platform) (hi : t.inputs = s.inputs) (hn : t.steps = s.steps)
    (hm : t.mem = s.mem) (ht : t.trace = s.trace) : Keeps s t :=
  ⟨hp, hi, hn, fun _ _ => by rw [hm], fun h => by rw [hm]; exact h, [], by rw [ht]; rfl⟩

/-- A change of registers, flags or latches after what keeps everything. -/
theorem Keeps.andThen {s t u : State} (h : Keeps s t) (hp : u.platform = t.platform) (hi : u.inputs = t.inputs)
    (hn : u.steps = t.steps) (hm : u.mem = t.mem) (ht : u.trace = t.trace) : Keeps s u :=
  h.trans (.of_eq hp hi hn hm ht)

/-- A change of registers, flags or latches before what keeps everything. -/
theorem Keeps.before {s t u : State} (h : Keeps t u) (hp : t.platform = s.platform) (hi : t.inputs = s.inputs)
    (hn : t.steps = s.steps) (hm : t.mem = s.mem) (ht : t.trace = s.trace) : Keeps s u :=
  (Keeps.of_eq hp hi hn hm ht).trans h

/-- A state that differs in the bus history alone, with a history that grew, keeps everything. -/
theorem Keeps.of_withBus {s t : State} (h : s.withBus t = t) (hn : ∃ new : List Event, t.trace = new ++ s.trace) :
    Keeps s t :=
  ⟨by rw [← h]; rfl, by rw [← h]; rfl, by rw [← h]; rfl, fun _ _ => by rw [← h]; rfl, fun hm => by rw [← h]; exact hm, hn⟩

theorem Keeps.memRead {addr : Word} {v : Byte} {s t : State} (h : Machine.memRead addr s = .ok (v, t)) : Keeps s t :=
  .of_withBus (memRead_frame h).1 ⟨[_], (memRead_frame h).2⟩

theorem Keeps.memWrite {addr : Word} {v : Byte} {s t : State} (h : Machine.memWrite addr v s = .ok t) :
    Keeps s t := by
  obtain ⟨-, rfl⟩ := memWrite_eq_ok.mp h
  exact ⟨rfl, rfl, rfl, fun _ hk => cellAt_cellStore_not_ram hk, wf_cellStore, [_], rfl⟩

theorem Keeps.readPair {lo hi w : Word} {s t : State} (h : Machine.readPair lo hi s = .ok (w, t)) : Keeps s t := by
  obtain ⟨_, _, _, h1, h2, -⟩ := readPair_eq_ok.mp h
  exact (Keeps.memRead h1).trans (.memRead h2)

theorem Keeps.read16 {addr w : Word} {s t : State} (h : Machine.read16 addr s = .ok (w, t)) : Keeps s t :=
  .readPair h

theorem Keeps.push {v : Byte} {s t : State} (h : Machine.push v s = .ok t) : Keeps s t := by
  obtain ⟨-, rfl⟩ := push_eq_ok.mp h
  exact ⟨rfl, rfl, rfl, fun _ hk => cellAt_cellStore_not_ram hk, wf_cellStore, [_], rfl⟩

theorem Keeps.pushWord {w : Word} {s t : State} (h : Machine.pushWord w s = .ok t) : Keeps s t := by
  simp only [Machine.pushWord, access_bind_eq_ok] at h
  obtain ⟨u, h1, h2⟩ := h
  exact (Keeps.push h1).trans (.push h2)

theorem Keeps.pull {v : Byte} {s t : State} (h : Machine.pull s = .ok (v, t)) : Keeps s t :=
  (Keeps.memRead h).before rfl rfl rfl rfl rfl

theorem Keeps.pullWord {w : Word} {s t : State} (h : Machine.pullWord s = .ok (w, t)) : Keeps s t := by
  simp only [Machine.pullWord, access_bind_eq_ok, Prod.exists, access_pure_eq_ok, Prod.mk.injEq] at h
  obtain ⟨_, u, h1, _, _, h2, -, rfl⟩ := h
  exact (Keeps.pull h1).trans (.pull h2)

theorem Keeps.effective {kind : AccessKind} {m : MemMode} {s : State} {e : Effective}
    (h : Machine.effective kind m s = .ok e) : Keeps s e.state :=
  .of_withBus (effective_frame h).1 (effective_frame h).2

theorem Keeps.withSource {src : Source} {f : Byte → State → State} {s t : State}
    (h : Machine.withSource src f s = .ok t) (hf : ∀ v u, Keeps u (f v u)) : Keeps s t := by
  obtain ⟨v, u, n, rfl, -, new, hn⟩ := withSource_inv h
  have h1 : Keeps s ((s.withBus u).tick n) := ⟨rfl, rfl, rfl, fun _ _ => rfl, id, new, hn⟩
  exact (h1.trans (hf v _)).andThen rfl rfl rfl rfl rfl

theorem Keeps.storeByte {m : MemMode} {v : Byte} {s t : State} (h : Machine.storeByte m v s = .ok t) : Keeps s t := by
  simp only [Machine.storeByte, access_bind_eq_ok, access_pure_eq_ok] at h
  obtain ⟨e, h1, u, h2, rfl⟩ := h
  exact ((Keeps.effective h1).trans (.memWrite h2)).andThen rfl rfl rfl rfl rfl

theorem Keeps.modifyMem {m : MemMode} {f : ByteOp} {s t : State} (h : Machine.modifyMem m f s = .ok t) : Keeps s t := by
  simp only [Machine.modifyMem, access_bind_eq_ok, access_pure_eq_ok, Prod.exists] at h
  obtain ⟨e, h1, v, u, h2, u1, h3, u2, h4, rfl⟩ := h
  exact ((Keeps.effective h1).trans ((Keeps.memRead h2).trans ((Keeps.memWrite h3).trans (.memWrite h4)))).andThen
    rfl rfl rfl rfl rfl

theorem Keeps.implied {f : State → State} {s t : State} (h : Machine.implied f s = .ok t) (hf : Keeps s (f s)) :
    Keeps s t := by
  obtain ⟨-, rfl⟩ := implied_eq_ok.mp h
  exact hf.andThen rfl rfl rfl rfl rfl

theorem Keeps.modifyA {f : ByteOp} {s t : State} (h : Machine.modifyA f s = .ok t) : Keeps s t :=
  .implied h (.of_eq rfl rfl rfl rfl rfl)

/-- Everything a branch can do: PC and the cycle counter. -/
theorem branch_inv {cond : Bool} {offset : Int} {s t : State} (h : branch cond offset s = .ok t) :
    ∃ pc n, t = (s.setPc pc).tick n ∧ 2 ≤ n := by
  unfold branch at h
  cases cond
  · exact ⟨_, 2, (access_pure_eq_ok.mp h).symm, le_refl 2⟩
  · simp only [if_true, access_bind_eq_ok] at h
    obtain ⟨_, _, h⟩ := h
    split at h
    · simp only [access_bind_eq_ok] at h
      obtain ⟨_, _, h⟩ := h
      exact ⟨_, 4, (access_pure_eq_ok.mp h).symm, by omega⟩
    · exact ⟨_, 3, (access_pure_eq_ok.mp h).symm, by omega⟩

theorem Keeps.branch {cond : Bool} {offset : Int} {s t : State} (h : Machine.branch cond offset s = .ok t) :
    Keeps s t := by
  obtain ⟨_, _, rfl, -⟩ := branch_inv h
  exact .of_eq rfl rfl rfl rfl rfl

theorem Keeps.takeInterrupt {ret vector : Word} {b : Bool} {s t : State}
    (h : Machine.takeInterrupt ret b vector s = .ok t) : Keeps s t := by
  simp only [Machine.takeInterrupt, access_bind_eq_ok, access_pure_eq_ok, Prod.exists] at h
  obtain ⟨u1, h1, u2, h2, w, u3, h3, rfl⟩ := h
  have k : Keeps u2 u3 := (Keeps.read16 h3).before rfl rfl rfl rfl rfl
  exact (((Keeps.pushWord h1).trans (.push h2)).trans k).andThen rfl rfl rfl rfl rfl

theorem Keeps.returnFromInterrupt {s t : State} (h : Machine.returnFromInterrupt s = .ok t) : Keeps s t := by
  obtain ⟨p, u, w, u', h1, h2, rfl⟩ := returnFromInterrupt_eq_ok.mp h
  have k : Keeps u u' := (Keeps.pullWord h2).before rfl rfl rfl rfl rfl
  exact ((Keeps.pull h1).trans k).andThen rfl rfl rfl rfl rfl

theorem Keeps.pushRegister {value : State → Byte} {s t : State} (h : Machine.pushRegister value s = .ok t) :
    Keeps s t := by
  simp only [Machine.pushRegister, access_bind_eq_ok, access_pure_eq_ok] at h
  obtain ⟨_, _, u, h1, rfl⟩ := h
  exact (Keeps.push h1).andThen rfl rfl rfl rfl rfl

theorem Keeps.pullRegister {f : Byte → State → State} {s t : State} (h : Machine.pullRegister f s = .ok t)
    (hf : ∀ v u, Keeps u (f v u)) : Keeps s t := by
  simp only [Machine.pullRegister, access_bind_eq_ok, access_pure_eq_ok, Prod.exists] at h
  obtain ⟨_, _, _, _, v, u, h1, rfl⟩ := h
  exact (Keeps.pull h1).trans ((hf v u).andThen rfl rfl rfl rfl rfl)

theorem Keeps.jumpIndirect {p : Word} {s t : State} (h : Machine.jumpIndirect p s = .ok t) : Keeps s t := by
  simp only [Machine.jumpIndirect, access_bind_eq_ok, access_pure_eq_ok, Prod.exists] at h
  obtain ⟨_, u, h1, rfl⟩ := h
  exact (Keeps.readPair h1).andThen rfl rfl rfl rfl rfl

theorem Keeps.jumpSubroutine {w : Word} {s t : State} (h : Machine.jumpSubroutine w s = .ok t) : Keeps s t := by
  simp only [Machine.jumpSubroutine, access_bind_eq_ok, access_pure_eq_ok] at h
  obtain ⟨_, _, u, h1, rfl⟩ := h
  exact (Keeps.pushWord h1).andThen rfl rfl rfl rfl rfl

theorem Keeps.returnSubroutine {s t : State} (h : Machine.returnSubroutine s = .ok t) : Keeps s t := by
  simp only [Machine.returnSubroutine, access_bind_eq_ok, access_pure_eq_ok, Prod.exists] at h
  obtain ⟨_, _, _, _, _, u, h1, _, _, rfl⟩ := h
  exact (Keeps.pullWord h1).andThen rfl rfl rfl rfl rfl

theorem Keeps.breakInterrupt {s t : State} (h : Machine.breakInterrupt s = .ok t) : Keeps s t := by
  simp only [Machine.breakInterrupt, access_bind_eq_ok, access_pure_eq_ok] at h
  obtain ⟨_, _, u, h1, rfl⟩ := h
  exact (Keeps.takeInterrupt h1).andThen rfl rfl rfl rfl rfl

theorem Keeps.returnInterrupt {s t : State} (h : Machine.returnInterrupt s = .ok t) : Keeps s t := by
  simp only [Machine.returnInterrupt, access_bind_eq_ok, access_pure_eq_ok] at h
  obtain ⟨_, _, _, _, u, h1, rfl⟩ := h
  exact (Keeps.returnFromInterrupt h1).andThen rfl rfl rfl rfl rfl

theorem Keeps.addCarry {src : Source} {s t : State} (h : Machine.addCarry src s = .ok t) : Keeps s t := by
  unfold Machine.addCarry at h
  split at h
  · exact absurd h (by simp)
  · exact .withSource h fun _ _ => .of_eq rfl rfl rfl rfl rfl

theorem Keeps.subtractCarry {src : Source} {s t : State} (h : Machine.subtractCarry src s = .ok t) : Keeps s t := by
  unfold Machine.subtractCarry at h
  split at h
  · exact absurd h (by simp)
  · exact .withSource h fun _ _ => .of_eq rfl rfl rfl rfl rfl

/-- What every one of the 151 instructions keeps. -/
theorem Keeps.exec {i : Instr} {s t : State} (h : Machine.exec i s = .next t) : Keeps s t := by
  obtain ⟨x, hm, hx⟩ := meaningOf_eq_some i s
  rw [hx, toOutcome_eq_next] at h
  subst h
  clear hx
  cases i <;> have h := Option.some.inj hm <;> clear hm
  all_goals first
    | exact .withSource h fun _ _ => .of_eq rfl rfl rfl rfl rfl
    | exact .storeByte h
    | exact .modifyMem h
    | exact .implied h (.of_eq rfl rfl rfl rfl rfl)
    | exact .implied h (.refl _)
    | exact .modifyA h
    | exact .branch h
    | exact .addCarry h
    | exact .subtractCarry h
    | exact .pushRegister h
    | exact .pullRegister h fun _ _ => .of_eq rfl rfl rfl rfl rfl
    | exact .jumpIndirect h
    | exact .jumpSubroutine h
    | exact .returnSubroutine h
    | exact .breakInterrupt h
    | exact .returnInterrupt h
    | (injection h with h; subst h; exact .of_eq rfl rfl rfl rfl rfl)

end Sys2Proof.Machine
end

