-- ==== Sys2Proof/Laws/PerInstr.lean ====
section
/-! SUPPORT. Statements about every instruction as syntax, one lemma per constructor. -/

namespace Sys2Proof.Laws

/-- How many bytes an operand form takes, the opcode included (30_encoding.md R80, R81). -/
def operandLength : Operand → Nat
  | .imp => 1
  | .acc => 1
  | .src (.imm _) => 2
  | .src (.mem (.abs _)) => 3
  | .src (.mem (.absx _)) => 3
  | .src (.mem (.absy _)) => 3
  | .src (.mem (.zp _)) => 2
  | .src (.mem (.zpx _)) => 2
  | .src (.mem (.zpy _)) => 2
  | .src (.mem (.indx _)) => 2
  | .src (.mem (.indy _)) => 2
  | .rel _ => 2
  | .ind _ => 3

/-- The encoding of an instruction is as long as its addressing mode says (30_encoding.md R80, R81). -/
def EncodedLength.Statement (i : Instr) : Prop := i.length = operandLength i.operand

theorem EncodedLength.ldaImm (b : Byte) : EncodedLength.Statement (.ldaImm b) := rfl
theorem EncodedLength.ldaZp (b : Byte) : EncodedLength.Statement (.ldaZp b) := rfl
theorem EncodedLength.ldaZpx (b : Byte) : EncodedLength.Statement (.ldaZpx b) := rfl
theorem EncodedLength.ldaAbs (w : Word) : EncodedLength.Statement (.ldaAbs w) := rfl
theorem EncodedLength.ldaAbsx (w : Word) : EncodedLength.Statement (.ldaAbsx w) := rfl
theorem EncodedLength.ldaAbsy (w : Word) : EncodedLength.Statement (.ldaAbsy w) := rfl
theorem EncodedLength.ldaIndx (b : Byte) : EncodedLength.Statement (.ldaIndx b) := rfl
theorem EncodedLength.ldaIndy (b : Byte) : EncodedLength.Statement (.ldaIndy b) := rfl
theorem EncodedLength.staZp (b : Byte) : EncodedLength.Statement (.staZp b) := rfl
theorem EncodedLength.staZpx (b : Byte) : EncodedLength.Statement (.staZpx b) := rfl
theorem EncodedLength.staAbs (w : Word) : EncodedLength.Statement (.staAbs w) := rfl
theorem EncodedLength.staAbsx (w : Word) : EncodedLength.Statement (.staAbsx w) := rfl
theorem EncodedLength.staAbsy (w : Word) : EncodedLength.Statement (.staAbsy w) := rfl
theorem EncodedLength.staIndx (b : Byte) : EncodedLength.Statement (.staIndx b) := rfl
theorem EncodedLength.staIndy (b : Byte) : EncodedLength.Statement (.staIndy b) := rfl
theorem EncodedLength.ldxImm (b : Byte) : EncodedLength.Statement (.ldxImm b) := rfl
theorem EncodedLength.ldxZp (b : Byte) : EncodedLength.Statement (.ldxZp b) := rfl
theorem EncodedLength.ldxZpy (b : Byte) : EncodedLength.Statement (.ldxZpy b) := rfl
theorem EncodedLength.ldxAbs (w : Word) : EncodedLength.Statement (.ldxAbs w) := rfl
theorem EncodedLength.ldxAbsy (w : Word) : EncodedLength.Statement (.ldxAbsy w) := rfl
theorem EncodedLength.stxZp (b : Byte) : EncodedLength.Statement (.stxZp b) := rfl
theorem EncodedLength.stxZpy (b : Byte) : EncodedLength.Statement (.stxZpy b) := rfl
theorem EncodedLength.stxAbs (w : Word) : EncodedLength.Statement (.stxAbs w) := rfl
theorem EncodedLength.ldyImm (b : Byte) : EncodedLength.Statement (.ldyImm b) := rfl
theorem EncodedLength.ldyZp (b : Byte) : EncodedLength.Statement (.ldyZp b) := rfl
theorem EncodedLength.ldyZpx (b : Byte) : EncodedLength.Statement (.ldyZpx b) := rfl
theorem EncodedLength.ldyAbs (w : Word) : EncodedLength.Statement (.ldyAbs w) := rfl
theorem EncodedLength.ldyAbsx (w : Word) : EncodedLength.Statement (.ldyAbsx w) := rfl
theorem EncodedLength.styZp (b : Byte) : EncodedLength.Statement (.styZp b) := rfl
theorem EncodedLength.styZpx (b : Byte) : EncodedLength.Statement (.styZpx b) := rfl
theorem EncodedLength.styAbs (w : Word) : EncodedLength.Statement (.styAbs w) := rfl
theorem EncodedLength.tax : EncodedLength.Statement .tax := rfl
theorem EncodedLength.txa : EncodedLength.Statement .txa := rfl
theorem EncodedLength.tay : EncodedLength.Statement .tay := rfl
theorem EncodedLength.tya : EncodedLength.Statement .tya := rfl
theorem EncodedLength.adcImm (b : Byte) : EncodedLength.Statement (.adcImm b) := rfl
theorem EncodedLength.adcZp (b : Byte) : EncodedLength.Statement (.adcZp b) := rfl
theorem EncodedLength.adcZpx (b : Byte) : EncodedLength.Statement (.adcZpx b) := rfl
theorem EncodedLength.adcAbs (w : Word) : EncodedLength.Statement (.adcAbs w) := rfl
theorem EncodedLength.adcAbsx (w : Word) : EncodedLength.Statement (.adcAbsx w) := rfl
theorem EncodedLength.adcAbsy (w : Word) : EncodedLength.Statement (.adcAbsy w) := rfl
theorem EncodedLength.adcIndx (b : Byte) : EncodedLength.Statement (.adcIndx b) := rfl
theorem EncodedLength.adcIndy (b : Byte) : EncodedLength.Statement (.adcIndy b) := rfl
theorem EncodedLength.sbcImm (b : Byte) : EncodedLength.Statement (.sbcImm b) := rfl
theorem EncodedLength.sbcZp (b : Byte) : EncodedLength.Statement (.sbcZp b) := rfl
theorem EncodedLength.sbcZpx (b : Byte) : EncodedLength.Statement (.sbcZpx b) := rfl
theorem EncodedLength.sbcAbs (w : Word) : EncodedLength.Statement (.sbcAbs w) := rfl
theorem EncodedLength.sbcAbsx (w : Word) : EncodedLength.Statement (.sbcAbsx w) := rfl
theorem EncodedLength.sbcAbsy (w : Word) : EncodedLength.Statement (.sbcAbsy w) := rfl
theorem EncodedLength.sbcIndx (b : Byte) : EncodedLength.Statement (.sbcIndx b) := rfl
theorem EncodedLength.sbcIndy (b : Byte) : EncodedLength.Statement (.sbcIndy b) := rfl
theorem EncodedLength.incZp (b : Byte) : EncodedLength.Statement (.incZp b) := rfl
theorem EncodedLength.incZpx (b : Byte) : EncodedLength.Statement (.incZpx b) := rfl
theorem EncodedLength.incAbs (w : Word) : EncodedLength.Statement (.incAbs w) := rfl
theorem EncodedLength.incAbsx (w : Word) : EncodedLength.Statement (.incAbsx w) := rfl
theorem EncodedLength.decZp (b : Byte) : EncodedLength.Statement (.decZp b) := rfl
theorem EncodedLength.decZpx (b : Byte) : EncodedLength.Statement (.decZpx b) := rfl
theorem EncodedLength.decAbs (w : Word) : EncodedLength.Statement (.decAbs w) := rfl
theorem EncodedLength.decAbsx (w : Word) : EncodedLength.Statement (.decAbsx w) := rfl
theorem EncodedLength.inx : EncodedLength.Statement .inx := rfl
theorem EncodedLength.dex : EncodedLength.Statement .dex := rfl
theorem EncodedLength.iny : EncodedLength.Statement .iny := rfl
theorem EncodedLength.dey : EncodedLength.Statement .dey := rfl
theorem EncodedLength.aslAcc : EncodedLength.Statement .aslAcc := rfl
theorem EncodedLength.aslZp (b : Byte) : EncodedLength.Statement (.aslZp b) := rfl
theorem EncodedLength.aslZpx (b : Byte) : EncodedLength.Statement (.aslZpx b) := rfl
theorem EncodedLength.aslAbs (w : Word) : EncodedLength.Statement (.aslAbs w) := rfl
theorem EncodedLength.aslAbsx (w : Word) : EncodedLength.Statement (.aslAbsx w) := rfl
theorem EncodedLength.lsrAcc : EncodedLength.Statement .lsrAcc := rfl
theorem EncodedLength.lsrZp (b : Byte) : EncodedLength.Statement (.lsrZp b) := rfl
theorem EncodedLength.lsrZpx (b : Byte) : EncodedLength.Statement (.lsrZpx b) := rfl
theorem EncodedLength.lsrAbs (w : Word) : EncodedLength.Statement (.lsrAbs w) := rfl
theorem EncodedLength.lsrAbsx (w : Word) : EncodedLength.Statement (.lsrAbsx w) := rfl
theorem EncodedLength.rolAcc : EncodedLength.Statement .rolAcc := rfl
theorem EncodedLength.rolZp (b : Byte) : EncodedLength.Statement (.rolZp b) := rfl
theorem EncodedLength.rolZpx (b : Byte) : EncodedLength.Statement (.rolZpx b) := rfl
theorem EncodedLength.rolAbs (w : Word) : EncodedLength.Statement (.rolAbs w) := rfl
theorem EncodedLength.rolAbsx (w : Word) : EncodedLength.Statement (.rolAbsx w) := rfl
theorem EncodedLength.rorAcc : EncodedLength.Statement .rorAcc := rfl
theorem EncodedLength.rorZp (b : Byte) : EncodedLength.Statement (.rorZp b) := rfl
theorem EncodedLength.rorZpx (b : Byte) : EncodedLength.Statement (.rorZpx b) := rfl
theorem EncodedLength.rorAbs (w : Word) : EncodedLength.Statement (.rorAbs w) := rfl
theorem EncodedLength.rorAbsx (w : Word) : EncodedLength.Statement (.rorAbsx w) := rfl
theorem EncodedLength.andImm (b : Byte) : EncodedLength.Statement (.andImm b) := rfl
theorem EncodedLength.andZp (b : Byte) : EncodedLength.Statement (.andZp b) := rfl
theorem EncodedLength.andZpx (b : Byte) : EncodedLength.Statement (.andZpx b) := rfl
theorem EncodedLength.andAbs (w : Word) : EncodedLength.Statement (.andAbs w) := rfl
theorem EncodedLength.andAbsx (w : Word) : EncodedLength.Statement (.andAbsx w) := rfl
theorem EncodedLength.andAbsy (w : Word) : EncodedLength.Statement (.andAbsy w) := rfl
theorem EncodedLength.andIndx (b : Byte) : EncodedLength.Statement (.andIndx b) := rfl
theorem EncodedLength.andIndy (b : Byte) : EncodedLength.Statement (.andIndy b) := rfl
theorem EncodedLength.oraImm (b : Byte) : EncodedLength.Statement (.oraImm b) := rfl
theorem EncodedLength.oraZp (b : Byte) : EncodedLength.Statement (.oraZp b) := rfl
theorem EncodedLength.oraZpx (b : Byte) : EncodedLength.Statement (.oraZpx b) := rfl
theorem EncodedLength.oraAbs (w : Word) : EncodedLength.Statement (.oraAbs w) := rfl
theorem EncodedLength.oraAbsx (w : Word) : EncodedLength.Statement (.oraAbsx w) := rfl
theorem EncodedLength.oraAbsy (w : Word) : EncodedLength.Statement (.oraAbsy w) := rfl
theorem EncodedLength.oraIndx (b : Byte) : EncodedLength.Statement (.oraIndx b) := rfl
theorem EncodedLength.oraIndy (b : Byte) : EncodedLength.Statement (.oraIndy b) := rfl
theorem EncodedLength.eorImm (b : Byte) : EncodedLength.Statement (.eorImm b) := rfl
theorem EncodedLength.eorZp (b : Byte) : EncodedLength.Statement (.eorZp b) := rfl
theorem EncodedLength.eorZpx (b : Byte) : EncodedLength.Statement (.eorZpx b) := rfl
theorem EncodedLength.eorAbs (w : Word) : EncodedLength.Statement (.eorAbs w) := rfl
theorem EncodedLength.eorAbsx (w : Word) : EncodedLength.Statement (.eorAbsx w) := rfl
theorem EncodedLength.eorAbsy (w : Word) : EncodedLength.Statement (.eorAbsy w) := rfl
theorem EncodedLength.eorIndx (b : Byte) : EncodedLength.Statement (.eorIndx b) := rfl
theorem EncodedLength.eorIndy (b : Byte) : EncodedLength.Statement (.eorIndy b) := rfl
theorem EncodedLength.bitZp (b : Byte) : EncodedLength.Statement (.bitZp b) := rfl
theorem EncodedLength.bitAbs (w : Word) : EncodedLength.Statement (.bitAbs w) := rfl
theorem EncodedLength.cmpImm (b : Byte) : EncodedLength.Statement (.cmpImm b) := rfl
theorem EncodedLength.cmpZp (b : Byte) : EncodedLength.Statement (.cmpZp b) := rfl
theorem EncodedLength.cmpZpx (b : Byte) : EncodedLength.Statement (.cmpZpx b) := rfl
theorem EncodedLength.cmpAbs (w : Word) : EncodedLength.Statement (.cmpAbs w) := rfl
theorem EncodedLength.cmpAbsx (w : Word) : EncodedLength.Statement (.cmpAbsx w) := rfl
theorem EncodedLength.cmpAbsy (w : Word) : EncodedLength.Statement (.cmpAbsy w) := rfl
theorem EncodedLength.cmpIndx (b : Byte) : EncodedLength.Statement (.cmpIndx b) := rfl
theorem EncodedLength.cmpIndy (b : Byte) : EncodedLength.Statement (.cmpIndy b) := rfl
theorem EncodedLength.cpxImm (b : Byte) : EncodedLength.Statement (.cpxImm b) := rfl
theorem EncodedLength.cpxZp (b : Byte) : EncodedLength.Statement (.cpxZp b) := rfl
theorem EncodedLength.cpxAbs (w : Word) : EncodedLength.Statement (.cpxAbs w) := rfl
theorem EncodedLength.cpyImm (b : Byte) : EncodedLength.Statement (.cpyImm b) := rfl
theorem EncodedLength.cpyZp (b : Byte) : EncodedLength.Statement (.cpyZp b) := rfl
theorem EncodedLength.cpyAbs (w : Word) : EncodedLength.Statement (.cpyAbs w) := rfl
theorem EncodedLength.bcc (offset : Int) : EncodedLength.Statement (.bcc offset) := rfl
theorem EncodedLength.bcs (offset : Int) : EncodedLength.Statement (.bcs offset) := rfl
theorem EncodedLength.beq (offset : Int) : EncodedLength.Statement (.beq offset) := rfl
theorem EncodedLength.bne (offset : Int) : EncodedLength.Statement (.bne offset) := rfl
theorem EncodedLength.bpl (offset : Int) : EncodedLength.Statement (.bpl offset) := rfl
theorem EncodedLength.bmi (offset : Int) : EncodedLength.Statement (.bmi offset) := rfl
theorem EncodedLength.bvc (offset : Int) : EncodedLength.Statement (.bvc offset) := rfl
theorem EncodedLength.bvs (offset : Int) : EncodedLength.Statement (.bvs offset) := rfl
theorem EncodedLength.jmpAbs (w : Word) : EncodedLength.Statement (.jmpAbs w) := rfl
theorem EncodedLength.jmpInd (p : Word) : EncodedLength.Statement (.jmpInd p) := rfl
theorem EncodedLength.jsr (w : Word) : EncodedLength.Statement (.jsr w) := rfl
theorem EncodedLength.rts : EncodedLength.Statement .rts := rfl
theorem EncodedLength.brk : EncodedLength.Statement .brk := rfl
theorem EncodedLength.rti : EncodedLength.Statement .rti := rfl
theorem EncodedLength.pha : EncodedLength.Statement .pha := rfl
theorem EncodedLength.pla : EncodedLength.Statement .pla := rfl
theorem EncodedLength.php : EncodedLength.Statement .php := rfl
theorem EncodedLength.plp : EncodedLength.Statement .plp := rfl
theorem EncodedLength.txs : EncodedLength.Statement .txs := rfl
theorem EncodedLength.tsx : EncodedLength.Statement .tsx := rfl
theorem EncodedLength.clc : EncodedLength.Statement .clc := rfl
theorem EncodedLength.sec : EncodedLength.Statement .sec := rfl
theorem EncodedLength.cli : EncodedLength.Statement .cli := rfl
theorem EncodedLength.sei : EncodedLength.Statement .sei := rfl
theorem EncodedLength.cld : EncodedLength.Statement .cld := rfl
theorem EncodedLength.sed : EncodedLength.Statement .sed := rfl
theorem EncodedLength.clv : EncodedLength.Statement .clv := rfl
theorem EncodedLength.nop : EncodedLength.Statement .nop := rfl

end Sys2Proof.Laws
end

