-- ==== Sys2Proof/Laws/Step.lean ====
section
/-! SUPPORT. What fetch, the interrupt sequence, reset and a whole step can do, said once. -/

namespace Sys2Proof.Machine

@[simp] theorem overflowPin_pc (s : State) : (overflowPin s).pc = s.pc := by unfold overflowPin; split <;> rfl
@[simp] theorem overflowPin_a (s : State) : (overflowPin s).a = s.a := by unfold overflowPin; split <;> rfl
@[simp] theorem overflowPin_x (s : State) : (overflowPin s).x = s.x := by unfold overflowPin; split <;> rfl
@[simp] theorem overflowPin_y (s : State) : (overflowPin s).y = s.y := by unfold overflowPin; split <;> rfl
@[simp] theorem overflowPin_sp (s : State) : (overflowPin s).sp = s.sp := by unfold overflowPin; split <;> rfl
@[simp] theorem overflowPin_mem (s : State) : (overflowPin s).mem = s.mem := by unfold overflowPin; split <;> rfl
@[simp] theorem overflowPin_platform (s : State) : (overflowPin s).platform = s.platform := by
  unfold overflowPin; split <;> rfl
@[simp] theorem overflowPin_inputs (s : State) : (overflowPin s).inputs = s.inputs := by
  unfold overflowPin; split <;> rfl
@[simp] theorem overflowPin_steps (s : State) : (overflowPin s).steps = s.steps := by
  unfold overflowPin; split <;> rfl
@[simp] theorem overflowPin_trace (s : State) : (overflowPin s).trace = s.trace := by
  unfold overflowPin; split <;> rfl
@[simp] theorem overflowPin_nmiPending (s : State) : (overflowPin s).nmiPending = s.nmiPending := by
  unfold overflowPin; split <;> rfl
@[simp] theorem overflowPin_intLatch (s : State) : (overflowPin s).intLatch = s.intLatch := by
  unfold overflowPin; split <;> rfl
@[simp] theorem overflowPin_flags_i (s : State) : (overflowPin s).flags.i = s.flags.i := by
  unfold overflowPin; split <;> rfl

/-- The overflow pin changes the flags and nothing else. -/
theorem overflowPin_eq (s : State) : overflowPin s = s.setFlags (overflowPin s).flags := by
  unfold overflowPin; split <;> rfl

/-- The input of a step depends on the listed inputs and the count of steps alone. -/
theorem nextInput_congr {s t : State} (h : t.inputs = s.inputs) (hn : t.steps = s.steps) :
    nextInput t = nextInput s := by
  unfold nextInput; rw [h, hn]

theorem currentEnv_congr {s t : State} (h : t.inputs = s.inputs) (hn : t.steps = s.steps) :
    currentEnv t = currentEnv s := by
  unfold currentEnv; rw [nextInput_congr h hn]

theorem nextInput_cons {s : State} {i : Input} {rest : List Input} (h : s.inputs = i :: rest) : nextInput s = i := by
  unfold nextInput; rw [h]

theorem currentEnv_of_env {s : State} {e : Env} (h : nextInput s = .env e) : currentEnv s = e := by
  unfold currentEnv; rw [h]

theorem Keeps.overflowPin (s : State) : Keeps s (Machine.overflowPin s) :=
  .of_eq (by simp) (by simp) (by simp) (by simp) (by simp)

/-- A fetch changes the bus history and nothing else, and makes at least one read. -/
theorem fetch_frame {i : Instr} {s t : State} (h : fetch s = .ok (i, t)) :
    s.withBus t = t ∧ ∃ new : List Event, new ≠ [] ∧ t.trace = new ++ s.trace := by
  simp only [fetch, access_bind_eq_ok, Prod.exists] at h
  obtain ⟨opcode, u, h1, h⟩ := h
  obtain ⟨f1, t1⟩ := memRead_frame h1
  split at h
  · exact absurd h (by simp)
  · simp only [access_pure_eq_ok, Prod.mk.injEq] at h
    obtain ⟨rfl, rfl⟩ := h
    exact ⟨f1, [_], by simp, t1⟩
  · simp only [access_bind_eq_ok, Prod.exists, access_pure_eq_ok, Prod.mk.injEq] at h
    obtain ⟨b, u2, h2, -, rfl⟩ := h
    obtain ⟨f2, t2⟩ := memRead_frame h2
    exact ⟨by rw [← f2, ← f1]; rfl, [_, _], by simp, by rw [t2, t1]; rfl⟩
  · simp only [access_bind_eq_ok, Prod.exists, access_pure_eq_ok, Prod.mk.injEq] at h
    obtain ⟨b, u2, h2, c, u3, h3, -, rfl⟩ := h
    obtain ⟨f2, t2⟩ := memRead_frame h2
    obtain ⟨f3, t3⟩ := memRead_frame h3
    exact ⟨by rw [← f3, ← f2, ← f1]; rfl, [_, _, _], by simp, by rw [t3, t2, t1]; rfl⟩

theorem Keeps.fetch {i : Instr} {s t : State} (h : Machine.fetch s = .ok (i, t)) : Keeps s t := by
  obtain ⟨f, new, -, hn⟩ := fetch_frame h
  exact .of_withBus f ⟨new, hn⟩

/-- Everything the interrupt sequence can do. -/
theorem interruptEntry_eq_ok {kind : Interrupt} {s t : State} : interruptEntry kind s = .ok t ↔
    kindAt s.platform s.pc ≠ .device ∧ ∃ u, takeInterrupt s.pc false (vectorOf s.platform kind) s = .ok u ∧
      t = ((u.setNmiPending (pendingAfterEntry kind s.nmiPending (currentEnv s).nmiEdge)).setIntLatch none).tick 7 := by
  simp only [interruptEntry, access_bind_eq_ok, extraRead_eq_ok, access_pure_eq_ok]
  constructor
  · rintro ⟨_, h, u, h1, rfl⟩
    exact ⟨h, u, h1, rfl⟩
  · rintro ⟨h, u, h1, rfl⟩
    exact ⟨(), h, u, h1, rfl⟩

/-- Everything a reset can do. -/
theorem takeReset_eq_ok {d : ResetDraw} {s t : State} : takeReset d s = .ok t ↔
    ∃ w u, read16 s.platform.resetVector s = .ok (w, u) ∧ t = { u with
      a := d.a, x := d.x, y := d.y, sp := d.sp, flags := resetFlags d, nmiPending := false, intLatch := none,
      pc := w, cycles := u.cycles + 7 } := by
  simp only [takeReset, access_bind_eq_ok, Prod.exists, access_pure_eq_ok]
  constructor
  · rintro ⟨w, u, h, rfl⟩
    exact ⟨w, u, h, rfl⟩
  · rintro ⟨w, u, h, rfl⟩
    exact ⟨w, u, h, rfl⟩

theorem access_map_eq_ok {f : State → State} {x : Access State} {t : State} :
    (f <$> x) = .ok t ↔ ∃ u, x = .ok u ∧ t = f u := by
  cases x <;> simp [Functor.map, Except.map, eq_comm]

theorem resetNext_eq_true {s : State} : resetNext s = true ↔ ∃ d, nextInput s = .reset d := by
  unfold resetNext
  split <;> simp_all

theorem resetNext_eq_false {s : State} : resetNext s = false ↔ ∃ e, nextInput s = .env e := by
  unfold resetNext
  split <;> simp_all

theorem step_reset {s : State} {d : ResetDraw} (h : nextInput s = .reset d) : step s = stepReset d s := by
  unfold step sequence
  rw [h]

/-- A step that is no reset. -/
theorem step_of_resetNext {s : State} (h : resetNext s = false) : step s = stepEnv s := by
  obtain ⟨e, he⟩ := resetNext_eq_false.mp h
  unfold step sequence
  rw [he]

theorem step_instr {s : State} (h : resetNext s = false) (hl : s.intLatch = none) :
    step s = stepInstr (overflowPin s) := by
  rw [step_of_resetNext h, stepEnv, hl]

theorem step_interrupt {s : State} {kind : Interrupt} (h : resetNext s = false) (hl : s.intLatch = some kind) :
    step s = stepInterrupt kind (overflowPin s) := by
  rw [step_of_resetNext h, stepEnv, hl]

/-- What a step that has a next state was: a reset, an interrupt sequence, or an instruction and its poll. -/
theorem step_cases {s t : State} (h : step s = .next t) :
    (∃ d u, nextInput s = .reset d ∧ takeReset d s = .ok u ∧ t = popInput u) ∨
    (∃ kind u, resetNext s = false ∧ s.intLatch = some kind ∧ interruptEntry kind (overflowPin s) = .ok u ∧
      t = popInput u) ∨
    (∃ i u v, resetNext s = false ∧ s.intLatch = none ∧ fetch (overflowPin s) = .ok (i, u) ∧
      exec i u = .next v ∧ t = finishInstr i.op u.flags.i v) := by
  cases hr : resetNext s
  · right
    cases hl : s.intLatch with
    | some kind =>
      rw [step_interrupt hr hl, stepInterrupt, toOutcome_eq_next, access_map_eq_ok] at h
      obtain ⟨u, hu, rfl⟩ := h
      exact .inl ⟨kind, u, rfl, rfl, hu, rfl⟩
    | none =>
      rw [step_instr hr hl, stepInstr] at h
      split at h
      · exact nomatch h
      · rename_i i u hf
        split at h
        · rename_i v hv
          injection h with h
          exact .inr ⟨i, u, v, rfl, rfl, hf, hv, h.symm⟩
        · exact nomatch h
        · exact nomatch h
  · left
    obtain ⟨d, hi⟩ := resetNext_eq_true.mp hr
    rw [step_reset hi, stepReset, toOutcome_eq_next, access_map_eq_ok] at h
    obtain ⟨u, hu, rfl⟩ := h
    exact ⟨d, u, hi, hu, rfl⟩

/-- Placing a byte keeps the canonical form. -/
theorem wf_placeByte {addr : Word} {v : Byte} {s : State} (h : s.mem.wf = true) : (placeByte addr v s).mem.wf = true := by
  unfold placeByte
  dsimp only
  split <;> exact Memory.wf_write v h addr.isLt

theorem wf_placeBytes {addr : Word} {bytes : List Byte} {s : State} (h : s.mem.wf = true) :
    (placeBytes addr bytes s).mem.wf = true := by
  induction bytes generalizing addr s with
  | nil => exact h
  | cons v rest ih => exact ih (wf_placeByte h)

/-- No reset stands before an instruction that is placed. -/
theorem runInputs_head (l : List Input) : ∃ e rest, runInputs l = .env e :: rest := by
  unfold runInputs
  induction l with
  | nil => exact ⟨_, _, rfl⟩
  | cons i rest ih =>
    cases i with
    | env e => exact ⟨_, _, rfl⟩
    | reset d => exact ih

/-- Placing an instruction keeps the canonical form. -/
theorem wf_withFetchWord {s : State} (nbits w : Nat) (h : s.mem.wf = true) :
    (s.withFetchWord nbits w).mem.wf = true :=
  wf_placeBytes h

end Sys2Proof.Machine
end

