-- ==== Sys2Proof/Laws/Refusal.lean ====
section
/-! SUPPORT. Why an operation can be refused: an access to an address that is not `ram`, or decimal arithmetic, and for
no other reason. -/

namespace Sys2Proof.Machine

/-- The refusal of an access at an address of a state that is not `ram`. -/
def AtPlatform (s : State) (r : Refusal) : Prop := ∃ addr, r = .platformAccess addr ∧ kindAt s.platform addr ≠ .ram

theorem AtPlatform.of_keeps {s t : State} {r : Refusal} (k : Keeps s t) (h : AtPlatform t r) : AtPlatform s r := by
  obtain ⟨a, hr, ha⟩ := h
  exact ⟨a, hr, by rw [← k.platform]; exact ha⟩

theorem AtPlatform.elim {s : State} {r : Refusal} (hs : AllRam s.platform) : ¬ AtPlatform s r :=
  fun ⟨a, _, ha⟩ => ha (hs a)

theorem AtPlatform.extraRead {addr : Word} {s : State} {r : Refusal} (h : Machine.extraRead addr s = .error r) :
    AtPlatform s r := by
  obtain ⟨hk, rfl⟩ := extraRead_error.mp h
  exact ⟨_, rfl, by rw [hk]; decide⟩

theorem AtPlatform.memRead {addr : Word} {s : State} {r : Refusal} (h : Machine.memRead addr s = .error r) :
    AtPlatform s r := by
  obtain ⟨hk, rfl⟩ := memRead_error.mp h
  exact ⟨_, rfl, by rw [hk]; decide⟩

theorem AtPlatform.memWrite {addr : Word} {v : Byte} {s : State} {r : Refusal}
    (h : Machine.memWrite addr v s = .error r) : AtPlatform s r := by
  obtain ⟨hk, rfl⟩ := memWrite_error.mp h
  exact ⟨_, rfl, by rw [hk]; decide⟩

theorem AtPlatform.readPair {lo hi : Word} {s : State} {r : Refusal} (h : Machine.readPair lo hi s = .error r) :
    AtPlatform s r := by
  simp only [Machine.readPair, access_bind_eq_error, access_pure_ne_error, and_false, exists_false, or_false] at h
  rcases h with h | ⟨⟨_, u⟩, h1, h⟩
  · exact .memRead h
  · exact .of_keeps (.memRead h1) (.memRead h)

theorem AtPlatform.push {v : Byte} {s : State} {r : Refusal} (h : Machine.push v s = .error r) : AtPlatform s r := by
  simp only [Machine.push, access_bind_eq_error, access_pure_ne_error, and_false, exists_false, or_false] at h
  exact .memWrite h

theorem AtPlatform.pull {s : State} {r : Refusal} (h : Machine.pull s = .error r) : AtPlatform s r :=
  .of_keeps (s := s) (t := s.setSp (s.sp + 1)) (.of_eq rfl rfl rfl rfl rfl) (.memRead h)

theorem AtPlatform.pushWord {w : Word} {s : State} {r : Refusal} (h : Machine.pushWord w s = .error r) :
    AtPlatform s r := by
  simp only [Machine.pushWord, access_bind_eq_error] at h
  rcases h with h | ⟨u, h1, h⟩
  · exact .push h
  · exact .of_keeps (.push h1) (.push h)

theorem AtPlatform.pullWord {s : State} {r : Refusal} (h : Machine.pullWord s = .error r) : AtPlatform s r := by
  simp only [Machine.pullWord, access_bind_eq_error, access_pure_ne_error, and_false, exists_false, or_false] at h
  rcases h with h | ⟨⟨_, u⟩, h1, h⟩
  · exact .pull h
  · exact .of_keeps (.pull h1) (.pull h)

theorem AtPlatform.takeInterrupt {ret vector : Word} {b : Bool} {s : State} {r : Refusal}
    (h : Machine.takeInterrupt ret b vector s = .error r) : AtPlatform s r := by
  simp only [Machine.takeInterrupt, access_bind_eq_error, access_pure_ne_error, and_false, exists_false,
    or_false] at h
  rcases h with h | ⟨u, h1, h | ⟨u2, h2, h⟩⟩
  · exact .pushWord h
  · exact .of_keeps (.pushWord h1) (.push h)
  · have k : Keeps s (u2.setFlags u2.flags.disableIrq) := ((Keeps.pushWord h1).trans (.push h2)).andThen rfl rfl rfl rfl rfl
    exact .of_keeps k (.readPair h)

theorem AtPlatform.returnFromInterrupt {s : State} {r : Refusal} (h : Machine.returnFromInterrupt s = .error r) :
    AtPlatform s r := by
  simp only [Machine.returnFromInterrupt, access_bind_eq_error, access_pure_ne_error, and_false, exists_false,
    or_false] at h
  rcases h with h | ⟨⟨p, u⟩, h1, h⟩
  · exact .pull h
  · have k : Keeps s (u.setFlags (unpackP p)) := (Keeps.pull h1).andThen rfl rfl rfl rfl rfl
    exact .of_keeps k (.pullWord h)

theorem AtPlatform.indexed {kind : AccessKind} {base : Word} {index : Byte} {s : State} {r : Refusal}
    (h : Machine.indexed kind base index s = .error r) : AtPlatform s r := by
  unfold Machine.indexed at h
  dsimp only at h
  split at h <;>
    simp only [access_bind_eq_error, access_pure_ne_error, and_false, exists_false, or_false] at h
  exact .extraRead h

/-- An operand form is refused for one of its accesses only. -/
theorem AtPlatform.effective {kind : AccessKind} {m : MemMode} {s : State} {r : Refusal}
    (h : Machine.effective kind m s = .error r) : AtPlatform s r := by
  cases m <;> simp only [Machine.effective, access_bind_eq_error, access_pure_ne_error, and_false, exists_false,
    or_false] at h
  · exact .extraRead h
  · exact .extraRead h
  · exact .indexed h
  · exact .indexed h
  · rcases h with h | ⟨_, _, h⟩
    · exact .extraRead h
    · exact .readPair h
  · rcases h with h | ⟨⟨_, u⟩, h1, h⟩
    · exact .readPair h
    · exact .of_keeps (.readPair h1) (.indexed h)

theorem AtPlatform.withSource {src : Source} {f : Byte → State → State} {s : State} {r : Refusal}
    (h : Machine.withSource src f s = .error r) : AtPlatform s r := by
  cases src with
  | imm b => exact nomatch h
  | mem m =>
    simp only [Machine.withSource, readSource, access_bind_eq_error, access_pure_ne_error, and_false, exists_false,
      or_false] at h
    rcases h with h | ⟨e, h1, h⟩
    · exact .effective h
    · exact .of_keeps (.effective h1) (.memRead h)

theorem AtPlatform.storeByte {m : MemMode} {v : Byte} {s : State} {r : Refusal}
    (h : Machine.storeByte m v s = .error r) : AtPlatform s r := by
  simp only [Machine.storeByte, access_bind_eq_error, access_pure_ne_error, and_false, exists_false, or_false] at h
  rcases h with h | ⟨e, h1, h⟩
  · exact .effective h
  · exact .of_keeps (.effective h1) (.memWrite h)

theorem AtPlatform.modifyMem {m : MemMode} {f : ByteOp} {s : State} {r : Refusal}
    (h : Machine.modifyMem m f s = .error r) : AtPlatform s r := by
  simp only [Machine.modifyMem, access_bind_eq_error, access_pure_ne_error, and_false, exists_false, or_false] at h
  rcases h with h | ⟨e, h1, h | ⟨⟨v, u⟩, h2, h | ⟨u1, h3, h⟩⟩⟩
  · exact .effective h
  · exact .of_keeps (.effective h1) (.memRead h)
  · exact .of_keeps ((Keeps.effective h1).trans (.memRead h2)) (.memWrite h)
  · exact .of_keeps (((Keeps.effective h1).trans (.memRead h2)).trans (.memWrite h3)) (.memWrite h)

theorem AtPlatform.implied {f : State → State} {s : State} {r : Refusal} (h : Machine.implied f s = .error r) :
    AtPlatform s r := by
  simp only [Machine.implied, access_bind_eq_error, access_pure_ne_error, and_false, exists_false, or_false] at h
  exact .extraRead h

theorem AtPlatform.branch {cond : Bool} {offset : Int} {s : State} {r : Refusal}
    (h : Machine.branch cond offset s = .error r) : AtPlatform s r := by
  unfold Machine.branch at h
  cases cond
  · exact nomatch h
  · simp only [if_true, access_bind_eq_error] at h
    rcases h with h | ⟨_, _, h⟩
    · exact .extraRead h
    · split at h <;>
        simp only [access_bind_eq_error, access_pure_ne_error, and_false, exists_false, or_false] at h
      exact .extraRead h

theorem AtPlatform.pushRegister {value : State → Byte} {s : State} {r : Refusal}
    (h : Machine.pushRegister value s = .error r) : AtPlatform s r := by
  simp only [Machine.pushRegister, access_bind_eq_error, access_pure_ne_error, and_false, exists_false, or_false] at h
  rcases h with h | ⟨_, _, h⟩
  · exact .extraRead h
  · exact .push h

theorem AtPlatform.pullRegister {f : Byte → State → State} {s : State} {r : Refusal}
    (h : Machine.pullRegister f s = .error r) : AtPlatform s r := by
  simp only [Machine.pullRegister, access_bind_eq_error, access_pure_ne_error, and_false, exists_false, or_false] at h
  rcases h with h | ⟨_, _, h | ⟨_, _, h⟩⟩
  · exact .extraRead h
  · exact .extraRead h
  · exact .pull h

theorem AtPlatform.jumpIndirect {p : Word} {s : State} {r : Refusal} (h : Machine.jumpIndirect p s = .error r) :
    AtPlatform s r := by
  simp only [Machine.jumpIndirect, access_bind_eq_error, access_pure_ne_error, and_false, exists_false, or_false] at h
  exact .readPair h

theorem AtPlatform.jumpSubroutine {w : Word} {s : State} {r : Refusal} (h : Machine.jumpSubroutine w s = .error r) :
    AtPlatform s r := by
  simp only [Machine.jumpSubroutine, access_bind_eq_error, access_pure_ne_error, and_false, exists_false,
    or_false] at h
  rcases h with h | ⟨_, _, h⟩
  · exact .extraRead h
  · exact .pushWord h

theorem AtPlatform.returnSubroutine {s : State} {r : Refusal} (h : Machine.returnSubroutine s = .error r) :
    AtPlatform s r := by
  simp only [Machine.returnSubroutine, access_bind_eq_error, access_pure_ne_error, and_false, exists_false,
    or_false] at h
  rcases h with h | ⟨_, _, h | ⟨_, _, h | ⟨⟨w, u⟩, h1, h⟩⟩⟩
  · exact .extraRead h
  · exact .extraRead h
  · exact .pullWord h
  · exact .of_keeps (.pullWord h1) (.extraRead h)

theorem AtPlatform.breakInterrupt {s : State} {r : Refusal} (h : Machine.breakInterrupt s = .error r) :
    AtPlatform s r := by
  simp only [Machine.breakInterrupt, access_bind_eq_error, access_pure_ne_error, and_false, exists_false,
    or_false] at h
  rcases h with h | ⟨_, _, h⟩
  · exact .extraRead h
  · exact .takeInterrupt h

theorem AtPlatform.returnInterrupt {s : State} {r : Refusal} (h : Machine.returnInterrupt s = .error r) :
    AtPlatform s r := by
  simp only [Machine.returnInterrupt, access_bind_eq_error, access_pure_ne_error, and_false, exists_false,
    or_false] at h
  rcases h with h | ⟨_, _, h | ⟨_, _, h⟩⟩
  · exact .extraRead h
  · exact .extraRead h
  · exact .returnFromInterrupt h

/-- ADC and SBC are refused for an access, or because decimal mode is active. -/
theorem addCarry_error {src : Source} {s : State} {r : Refusal} (h : addCarry src s = .error r) :
    AtPlatform s r ∨ decimalActive s = true ∧ r = .decimalArithmetic s.pc := by
  unfold addCarry at h
  split at h
  · exact .inr ⟨‹_›, (Except.error.inj h).symm⟩
  · exact .inl (.withSource h)

theorem subtractCarry_error {src : Source} {s : State} {r : Refusal} (h : subtractCarry src s = .error r) :
    AtPlatform s r ∨ decimalActive s = true ∧ r = .decimalArithmetic s.pc := by
  unfold subtractCarry at h
  split at h
  · exact .inr ⟨‹_›, (Except.error.inj h).symm⟩
  · exact .inl (.withSource h)

/-- Every reason an instruction can be refused. -/
theorem exec_refused {i : Instr} {s : State} {r : Refusal} (h : exec i s = .refused r) :
    AtPlatform s r ∨ decimalActive s = true ∧ r = .decimalArithmetic s.pc := by
  obtain ⟨x, hm, hx⟩ := meaningOf_eq_some i s
  rw [hx, toOutcome_eq_refused] at h
  subst h
  clear hx
  cases i <;> have h := Option.some.inj hm <;> clear hm
  all_goals first
    | exact .inl (.withSource h)
    | exact .inl (.storeByte h)
    | exact .inl (.modifyMem h)
    | exact .inl (.implied h)
    | exact .inl (.branch h)
    | exact addCarry_error h
    | exact subtractCarry_error h
    | exact .inl (.pushRegister h)
    | exact .inl (.pullRegister h)
    | exact .inl (.jumpIndirect h)
    | exact .inl (.jumpSubroutine h)
    | exact .inl (.returnSubroutine h)
    | exact .inl (.breakInterrupt h)
    | exact .inl (.returnInterrupt h)
    | exact nomatch h

/-- Fetch is refused for one of its accesses, or because the opcode it read is undocumented. -/
theorem fetch_refused {s : State} {r : Refusal} (h : fetch s = .error r) :
    AtPlatform s r ∨ ∃ opcode u, memRead s.pc s = .ok (opcode, u) ∧ layoutOf opcode = none ∧
      r = .undocumentedOpcode opcode s.pc := by
  simp only [fetch, access_bind_eq_error] at h
  rcases h with h | ⟨⟨opcode, u⟩, h1, h⟩
  · exact .inl (.memRead h)
  · have k := Keeps.memRead h1
    have hpc : u.pc = s.pc := by rw [← (memRead_frame h1).1]; rfl
    split at h
    · rename_i hl
      exact .inr ⟨opcode, u, h1, hl, by rw [← hpc]; exact (Except.error.inj h).symm⟩
    · exact nomatch h
    · simp only [access_bind_eq_error, access_pure_ne_error, and_false, exists_false, or_false] at h
      exact .inl (.of_keeps k (.memRead h))
    · simp only [access_bind_eq_error, access_pure_ne_error, and_false, exists_false, or_false] at h
      rcases h with h | ⟨⟨_, u2⟩, h2, h⟩
      · exact .inl (.of_keeps k (.memRead h))
      · exact .inl (.of_keeps (k.trans (.memRead h2)) (.memRead h))

end Sys2Proof.Machine
end

