-- ==== Sys2Proof/Machine/Assembly.lean ====
section
/-! DEFINITION. The assembler's spelling of the instructions (30_encoding.md R105 to R109): mnemonics and the two
alternative names, the operand syntax of each mode, the offset a branch target becomes, and the instruction a
mnemonic and an operand stand for. No step reads any of it.
PRESUMED (entry 10): but for `JMP ($03FF)` and the names of the modes, the syntax of R106 is general knowledge of
the spec. -/

namespace Sys2Proof.Machine

/-- The three letters of a mnemonic (00_scope.md R2, 30_encoding.md R105). -/
def mnemonicText : Op → String
  | .lda => "LDA" | .sta => "STA" | .ldx => "LDX" | .stx => "STX" | .ldy => "LDY" | .sty => "STY"
  | .tax => "TAX" | .txa => "TXA" | .tay => "TAY" | .tya => "TYA"
  | .adc => "ADC" | .sbc => "SBC" | .inc => "INC" | .dec => "DEC" | .inx => "INX" | .dex => "DEX"
  | .iny => "INY" | .dey => "DEY"
  | .asl => "ASL" | .lsr => "LSR" | .rol => "ROL" | .ror => "ROR"
  | .and => "AND" | .ora => "ORA" | .eor => "EOR" | .bit => "BIT"
  | .cmp => "CMP" | .cpx => "CPX" | .cpy => "CPY"
  | .bcc => "BCC" | .bcs => "BCS" | .beq => "BEQ" | .bne => "BNE" | .bpl => "BPL" | .bmi => "BMI"
  | .bvc => "BVC" | .bvs => "BVS"
  | .jmp => "JMP" | .jsr => "JSR" | .rts => "RTS" | .brk => "BRK" | .rti => "RTI"
  | .pha => "PHA" | .pla => "PLA" | .php => "PHP" | .plp => "PLP" | .txs => "TXS" | .tsx => "TSX"
  | .clc => "CLC" | .sec => "SEC" | .cli => "CLI" | .sei => "SEI" | .cld => "CLD" | .sed => "SED"
  | .clv => "CLV" | .nop => "NOP"

/-- The alternative names: BLT is BCC and BGE is BCS (30_encoding.md R109). -/
def alternativeNames : List (String × Op) := [("BLT", .bcc), ("BGE", .bcs)]

/-- The digits of a hexadecimal number, as capitals. -/
def hexDigits : List Char :=
  ['0', '1', '2', '3', '4', '5', '6', '7', '8', '9', 'A', 'B', 'C', 'D', 'E', 'F']

/-- The lowest `k` hexadecimal digits of a number. -/
def hexText : Nat → Nat → List Char
  | 0, _ => []
  | k + 1, n => hexText k (n / 16) ++ [hexDigits.getD (n % 16) '0']

/-- `$nn` (30_encoding.md R106). -/
def byteText (b : Byte) : String := "$" ++ String.ofList (hexText 2 b.toNat)

/-- `$nnnn` (30_encoding.md R106). -/
def wordText (w : Word) : String := "$" ++ String.ofList (hexText 4 w.toNat)

/-- The operand of a memory mode (30_encoding.md R106). -/
def memModeText : MemMode → String
  | .zp b => byteText b
  | .zpx b => byteText b ++ ",X"
  | .zpy b => byteText b ++ ",Y"
  | .abs w => wordText w
  | .absx w => wordText w ++ ",X"
  | .absy w => wordText w ++ ",Y"
  | .indx b => "(" ++ byteText b ++ ",X)"
  | .indy b => "(" ++ byteText b ++ "),Y"

/-- The operand as written, with the space before it; nothing in Implied mode (30_encoding.md R106). A branch is
written with its target, so its own address is needed. -/
def operandText (pc0 : Word) : Operand → String
  | .imp => ""
  | .acc => " A"
  | .src (.imm b) => " #" ++ byteText b
  | .src (.mem m) => " " ++ memModeText m
  | .rel offset => " " ++ wordText (pc0 + 2 + BitVec.ofInt 16 offset)
  | .ind p => " (" ++ wordText p ++ ")"

/-- An instruction at an address, as assembly text (30_encoding.md R105, R106). -/
def instrText (pc0 : Word) (i : Instr) : String := mnemonicText i.op ++ operandText pc0 i.operand

/-- The offset stored for a branch at `pc0` to a target: target − (pc0 + 2) mod 65536 as a signed number, and none
outside −128 to 127 (30_encoding.md R106). -/
def branchOffset (pc0 target : Word) : Option Int :=
  let offset := (target - (pc0 + 2)).toInt
  if -128 ≤ offset ∧ offset ≤ 127 then some offset else none

/-- The operand's bytes after the opcode, low byte first (30_encoding.md R80). -/
def operandWord : Operand → Word
  | .imp => 0
  | .acc => 0
  | .src (.imm b) => b.setWidth 16
  | .src (.mem (.zp b)) => b.setWidth 16
  | .src (.mem (.zpx b)) => b.setWidth 16
  | .src (.mem (.zpy b)) => b.setWidth 16
  | .src (.mem (.abs w)) => w
  | .src (.mem (.absx w)) => w
  | .src (.mem (.absy w)) => w
  | .src (.mem (.indx b)) => b.setWidth 16
  | .src (.mem (.indy b)) => b.setWidth 16
  | .rel offset => (offsetByte offset).setWidth 16
  | .ind p => p

/-- An opcode's instruction with the given operand bytes, if the opcode has a meaning. -/
def fillLayout (w : Word) : Option Layout → Option Instr
  | none => none
  | some (.f1 i) => some i
  | some (.f2 make) => some (make (lo8 w))
  | some (.f3 make) => some (make w)

/-- The instruction of exactly this mnemonic and operand form, if the table has one (30_encoding.md R100). -/
def assembleExact (op : Op) (o : Operand) : Option Instr :=
  (List.range 256).findSome? fun n =>
    (fillLayout (operandWord o) (layoutOf (BitVec.ofNat 8 n))).filter fun i => decide (i.op = op ∧ i.operand = o)

/-- The zero page form of an operand written with an absolute address below `$100`. -/
def zeroPageForm : Operand → Option Operand
  | .src (.mem (.abs w)) => if hi8 w = 0 then some (.src (.mem (.zp (lo8 w)))) else none
  | .src (.mem (.absx w)) => if hi8 w = 0 then some (.src (.mem (.zpx (lo8 w)))) else none
  | .src (.mem (.absy w)) => if hi8 w = 0 then some (.src (.mem (.zpy (lo8 w)))) else none
  | .src (.imm _) | .src (.mem (.zp _)) | .src (.mem (.zpx _)) | .src (.mem (.zpy _)) | .src (.mem (.indx _))
  | .src (.mem (.indy _)) | .imp | .acc | .rel _ | .ind _ => none

/-- The instruction an assembler makes of a mnemonic and an operand: the zero page form where the address is below
`$100` and the mnemonic has that form, else the form as written; a shift with no operand is in Accumulator mode
(30_encoding.md R106). -/
def assemble (op : Op) (o : Operand) : Option Instr :=
  match (zeroPageForm o).bind (assembleExact op) with
  | some i => some i
  | none => if o = .imp then (assembleExact op .imp).or (assembleExact op .acc) else assembleExact op o

/-- The bytes `BRK #$nn` makes in the assemblers that accept it (30_encoding.md R107). -/
def breakWithArgument (b : Byte) : List Byte := encode .brk ++ [b]

end Sys2Proof.Machine
end

