-- ==== Sys2Proof/Tests/Slice0.lean ====
section
/-! SUPPORT. The model's own tests. The expected results of the vectors are those of spec/95_test_vectors.md (its id
stands in each name), one step each; the words of the decode tests are written from the encoding tables of
files 40 to 49; the witnesses show that the hypotheses of the statements can be met. -/

namespace Sys2Proof.Tests

set_option Elab.async false

open Machine

/-- The six flags at 0. -/
def clear : Flags := { n := false, v := false, d := false, i := false, z := false, c := false }

/-- The six flags at 1. -/
def allSet : Flags := { n := true, v := true, d := true, i := true, z := true, c := true }

/-- Cells written one after the other into a memory. -/
def store (cells : List (Nat × Byte)) (m : Memory) : Memory := cells.foldl (fun m c => m.write c.1 c.2) m

/-- Bytes placed in a memory from an address upwards. -/
def place : Nat → List Byte → Memory → Memory
  | _, [], m => m
  | a, b :: rest, m => place ((a + 1) % 65536) rest (m.write a b)

/-- The start state of a vector (70_reset_and_hazards.md R288): its bytes at `pc`, its cells, everything else 0,
SP = $FF, and one quiet input. -/
def start (pc : Word) (bytes : List Byte) (cells : List (Nat × Byte)) : State :=
  { State.reset with
    pc := pc, flags := clear, mem := place pc.toNat bytes (store cells []), inputs := [.env {}] }

/-- One step has a next state with a property. -/
def gives (s : State) (p : State → Bool) : Bool :=
  match step s with
  | .next t => p t
  | .fault _ => false
  | .refused _ => false

/-- One step is refused for a reason. -/
def refuses (s : State) (r : Refusal) : Bool :=
  match step s with
  | .next _ => false
  | .fault _ => false
  | .refused q => q == r

theorem next_of_gives {s : State} {p : State → Bool} (h : gives s p = true) : ∃ t, step s = .next t ∧ p t = true := by
  unfold gives at h
  split at h
  · exact ⟨_, ‹_›, h⟩
  · exact nomatch h
  · exact nomatch h

/-- The writes of the step, in order. -/
def writes (t : State) : List (Word × Byte) :=
  t.trace.reverse.filterMap fun e => match e with
    | .write addr v => some (addr, v)
    | .read _ _ => none

/-- What the last poll latched, and whether an NMI is pending. -/
def latchAndPending (t : State) : Option Interrupt × Bool := (t.intLatch, t.nmiPending)

-- Well-formedness: the one check, the range of a branch's offset (30_encoding.md R93)

theorem test_offset_128_refused : [Instr.bcc 128, .bcs 128, .beq 128, .bne 128, .bpl 128, .bmi 128, .bvc 128,
    .bvs 128].map (fun i => i.operand.wellFormed) = List.replicate 8 false := by decide

theorem test_offset_minus129_refused : [Instr.bcc (-129), .bcs (-129), .beq (-129), .bne (-129), .bpl (-129),
    .bmi (-129), .bvc (-129), .bvs (-129)].map (fun i => i.operand.wellFormed) = List.replicate 8 false := by decide

theorem test_offset_ends_accepted : (Instr.bne 127).WellFormed ∧ (Instr.bne (-128)).WellFormed := by decide

-- Decoding: one word for every constructor, written from the encoding tables of files 40 to 49

/-- Every byte sequence decodes to its instruction, with nothing left over. -/
def decodesTo (l : List (List Byte × Instr)) : Bool :=
  l.all fun c => match decode c.1 with
    | .ok (i, rest) => i == c.2 && rest == []
    | .error _ => false

theorem test_decode_access : decodesTo [([0xA9, 0x8D], .ldaImm 0x8D), ([0xA5, 0x8D], .ldaZp 0x8D),
    ([0xB5, 0x8D], .ldaZpx 0x8D), ([0xAD, 0x34, 0x92], .ldaAbs 0x9234), ([0xBD, 0x34, 0x92], .ldaAbsx 0x9234),
    ([0xB9, 0x34, 0x92], .ldaAbsy 0x9234), ([0xA1, 0x8D], .ldaIndx 0x8D), ([0xB1, 0x8D], .ldaIndy 0x8D),
    ([0x85, 0x8D], .staZp 0x8D), ([0x95, 0x8D], .staZpx 0x8D), ([0x8D, 0x34, 0x92], .staAbs 0x9234),
    ([0x9D, 0x34, 0x92], .staAbsx 0x9234), ([0x99, 0x34, 0x92], .staAbsy 0x9234), ([0x81, 0x8D], .staIndx 0x8D),
    ([0x91, 0x8D], .staIndy 0x8D), ([0xA2, 0x8D], .ldxImm 0x8D), ([0xA6, 0x8D], .ldxZp 0x8D),
    ([0xB6, 0x8D], .ldxZpy 0x8D), ([0xAE, 0x34, 0x92], .ldxAbs 0x9234), ([0xBE, 0x34, 0x92], .ldxAbsy 0x9234),
    ([0x86, 0x8D], .stxZp 0x8D), ([0x96, 0x8D], .stxZpy 0x8D), ([0x8E, 0x34, 0x92], .stxAbs 0x9234),
    ([0xA0, 0x8D], .ldyImm 0x8D), ([0xA4, 0x8D], .ldyZp 0x8D), ([0xB4, 0x8D], .ldyZpx 0x8D),
    ([0xAC, 0x34, 0x92], .ldyAbs 0x9234), ([0xBC, 0x34, 0x92], .ldyAbsx 0x9234), ([0x84, 0x8D], .styZp 0x8D),
    ([0x94, 0x8D], .styZpx 0x8D), ([0x8C, 0x34, 0x92], .styAbs 0x9234)] = true := by decide

theorem test_decode_transfer : decodesTo [([0xAA], .tax), ([0x8A], .txa), ([0xA8], .tay), ([0x98], .tya)] = true :=
    by decide

theorem test_decode_arithmetic : decodesTo [([0x69, 0x8D], .adcImm 0x8D), ([0x65, 0x8D], .adcZp 0x8D),
    ([0x75, 0x8D], .adcZpx 0x8D), ([0x6D, 0x34, 0x92], .adcAbs 0x9234), ([0x7D, 0x34, 0x92], .adcAbsx 0x9234),
    ([0x79, 0x34, 0x92], .adcAbsy 0x9234), ([0x61, 0x8D], .adcIndx 0x8D), ([0x71, 0x8D], .adcIndy 0x8D),
    ([0xE9, 0x8D], .sbcImm 0x8D), ([0xE5, 0x8D], .sbcZp 0x8D), ([0xF5, 0x8D], .sbcZpx 0x8D),
    ([0xED, 0x34, 0x92], .sbcAbs 0x9234), ([0xFD, 0x34, 0x92], .sbcAbsx 0x9234),
    ([0xF9, 0x34, 0x92], .sbcAbsy 0x9234), ([0xE1, 0x8D], .sbcIndx 0x8D), ([0xF1, 0x8D], .sbcIndy 0x8D),
    ([0xE6, 0x8D], .incZp 0x8D), ([0xF6, 0x8D], .incZpx 0x8D), ([0xEE, 0x34, 0x92], .incAbs 0x9234),
    ([0xFE, 0x34, 0x92], .incAbsx 0x9234), ([0xC6, 0x8D], .decZp 0x8D), ([0xD6, 0x8D], .decZpx 0x8D),
    ([0xCE, 0x34, 0x92], .decAbs 0x9234), ([0xDE, 0x34, 0x92], .decAbsx 0x9234), ([0xE8], .inx), ([0xCA], .dex),
    ([0xC8], .iny), ([0x88], .dey)] = true := by decide

theorem test_decode_shift : decodesTo [([0x0A], .aslAcc), ([0x06, 0x8D], .aslZp 0x8D), ([0x16, 0x8D], .aslZpx 0x8D),
    ([0x0E, 0x34, 0x92], .aslAbs 0x9234), ([0x1E, 0x34, 0x92], .aslAbsx 0x9234), ([0x4A], .lsrAcc),
    ([0x46, 0x8D], .lsrZp 0x8D), ([0x56, 0x8D], .lsrZpx 0x8D), ([0x4E, 0x34, 0x92], .lsrAbs 0x9234),
    ([0x5E, 0x34, 0x92], .lsrAbsx 0x9234), ([0x2A], .rolAcc), ([0x26, 0x8D], .rolZp 0x8D),
    ([0x36, 0x8D], .rolZpx 0x8D), ([0x2E, 0x34, 0x92], .rolAbs 0x9234), ([0x3E, 0x34, 0x92], .rolAbsx 0x9234),
    ([0x6A], .rorAcc), ([0x66, 0x8D], .rorZp 0x8D), ([0x76, 0x8D], .rorZpx 0x8D),
    ([0x6E, 0x34, 0x92], .rorAbs 0x9234), ([0x7E, 0x34, 0x92], .rorAbsx 0x9234)] = true := by decide

theorem test_decode_bitwise : decodesTo [([0x29, 0x8D], .andImm 0x8D), ([0x25, 0x8D], .andZp 0x8D),
    ([0x35, 0x8D], .andZpx 0x8D), ([0x2D, 0x34, 0x92], .andAbs 0x9234), ([0x3D, 0x34, 0x92], .andAbsx 0x9234),
    ([0x39, 0x34, 0x92], .andAbsy 0x9234), ([0x21, 0x8D], .andIndx 0x8D), ([0x31, 0x8D], .andIndy 0x8D),
    ([0x09, 0x8D], .oraImm 0x8D), ([0x05, 0x8D], .oraZp 0x8D), ([0x15, 0x8D], .oraZpx 0x8D),
    ([0x0D, 0x34, 0x92], .oraAbs 0x9234), ([0x1D, 0x34, 0x92], .oraAbsx 0x9234),
    ([0x19, 0x34, 0x92], .oraAbsy 0x9234), ([0x01, 0x8D], .oraIndx 0x8D), ([0x11, 0x8D], .oraIndy 0x8D),
    ([0x49, 0x8D], .eorImm 0x8D), ([0x45, 0x8D], .eorZp 0x8D), ([0x55, 0x8D], .eorZpx 0x8D),
    ([0x4D, 0x34, 0x92], .eorAbs 0x9234), ([0x5D, 0x34, 0x92], .eorAbsx 0x9234),
    ([0x59, 0x34, 0x92], .eorAbsy 0x9234), ([0x41, 0x8D], .eorIndx 0x8D), ([0x51, 0x8D], .eorIndy 0x8D),
    ([0x24, 0x8D], .bitZp 0x8D), ([0x2C, 0x34, 0x92], .bitAbs 0x9234)] = true := by decide

theorem test_decode_compare : decodesTo [([0xC9, 0x8D], .cmpImm 0x8D), ([0xC5, 0x8D], .cmpZp 0x8D),
    ([0xD5, 0x8D], .cmpZpx 0x8D), ([0xCD, 0x34, 0x92], .cmpAbs 0x9234), ([0xDD, 0x34, 0x92], .cmpAbsx 0x9234),
    ([0xD9, 0x34, 0x92], .cmpAbsy 0x9234), ([0xC1, 0x8D], .cmpIndx 0x8D), ([0xD1, 0x8D], .cmpIndy 0x8D),
    ([0xE0, 0x8D], .cpxImm 0x8D), ([0xE4, 0x8D], .cpxZp 0x8D), ([0xEC, 0x34, 0x92], .cpxAbs 0x9234),
    ([0xC0, 0x8D], .cpyImm 0x8D), ([0xC4, 0x8D], .cpyZp 0x8D), ([0xCC, 0x34, 0x92], .cpyAbs 0x9234)] = true := by
    decide

theorem test_decode_branch : decodesTo [([0x90, 0xFE], .bcc (-2)), ([0xB0, 0xFE], .bcs (-2)),
    ([0xF0, 0xFE], .beq (-2)), ([0xD0, 0xFE], .bne (-2)), ([0x10, 0xFE], .bpl (-2)), ([0x30, 0xFE], .bmi (-2)),
    ([0x50, 0xFE], .bvc (-2)), ([0x70, 0xFE], .bvs (-2))] = true := by decide

theorem test_decode_jump : decodesTo [([0x4C, 0x34, 0x92], .jmpAbs 0x9234), ([0x6C, 0x34, 0x92], .jmpInd 0x9234),
    ([0x20, 0x34, 0x92], .jsr 0x9234), ([0x60], .rts), ([0x00], .brk), ([0x40], .rti)] = true := by decide

theorem test_decode_stack : decodesTo [([0x48], .pha), ([0x68], .pla), ([0x08], .php), ([0x28], .plp),
    ([0x9A], .txs), ([0xBA], .tsx)] = true := by decide

theorem test_decode_flags : decodesTo [([0x18], .clc), ([0x38], .sec), ([0x58], .cli), ([0x78], .sei),
    ([0xD8], .cld), ([0xF8], .sed), ([0xB8], .clv), ([0xEA], .nop)] = true := by decide

theorem test_decode_refuses : decode [] = .error .noBytes ∧ decode [0x02] = .error (.undocumented 0x02) ∧
    decode [0x89, 0x00] = .error (.undocumented 0x89) ∧ decode [0xAD, 0x34] = .error (.truncated 0xAD) ∧
    decode [0xA9] = .error (.truncated 0xA9) := ⟨rfl, rfl, rfl, rfl, rfl⟩

theorem test_decodeTableWord : decodeTableWord 24 0x1234AD = some (.ldaAbs 0x1234) ∧
    decodeTableWord 8 0xEA = some .nop ∧ decodeTableWord 16 0xFED0 = some (.bne (-2)) ∧
    decodeTableWord 8 0xAD = some (.ldaAbs 0) ∧ decodeTableWord 8 0x02 = none := by decide

theorem test_withFetchWord : gives (State.reset.withFetchWord 24 0x1234EE) (fun t =>
    t.pc == 0x0003 && t.mem.read 0x1234 == 0x01) = true := by decide +kernel

-- Vectors of spec/95_test_vectors.md section 2, at most two for an instruction: what changed, and every access in order

theorem test_A1_ldaImm : gives { start 0x0200 [0xA9, 0x00] [] with flags := { clear with n := true } } (fun t =>
    !t.flags.n && t.flags.z && t.pc == 0x0202 && t.trace.reverse == [.read 0x0200 0xA9, .read 0x0201 0x00]) = true
    := by decide +kernel

theorem test_A3_ldaZp : gives (start 0x0200 [0xA5, 0x10] [(0x0010, 0x7F)]) (fun t => t.a == 0x7F &&
    t.pc == 0x0202 && t.trace.reverse == [.read 0x0200 0xA5, .read 0x0201 0x10, .read 0x0010 0x7F]) = true :=
    by decide +kernel

theorem test_A4_ldaZpx : gives { start 0x0200 [0xB5, 0xF0] [(0x000F, 0x55), (0x010F, 0xAA)] with x := 0x1F } (fun t
    => t.a == 0x55 && t.pc == 0x0202 && t.trace.reverse == [.read 0x0200 0xB5, .read 0x0201 0xF0,
    .read 0x000F 0x55]) = true := by decide +kernel

theorem test_A5_ldaAbs : gives (start 0x0200 [0xAD, 0x34, 0x12] [(0x1234, 0x99)]) (fun t => t.a == 0x99 &&
    t.flags.n && t.pc == 0x0203 && t.trace.reverse == [.read 0x0200 0xAD, .read 0x0201 0x34, .read 0x0202 0x12,
    .read 0x1234 0x99]) = true := by decide +kernel

theorem test_A6_ldaAbsx : gives { start 0x0200 [0xBD, 0xFF, 0x12] [(0x1300, 0x01)] with x := 0x01 } (fun t =>
    t.a == 0x01 && t.pc == 0x0203 && t.trace.reverse == [.read 0x0200 0xBD, .read 0x0201 0xFF, .read 0x0202 0x12,
    .read 0x1300 0x01]) = true := by decide +kernel

theorem test_A7_ldaAbsy : gives { start 0x0200 [0xB9, 0xFF, 0xFF] [(0x0000, 0x42)] with y := 0x01 } (fun t =>
    t.a == 0x42 && t.pc == 0x0203 && t.trace.reverse == [.read 0x0200 0xB9, .read 0x0201 0xFF, .read 0x0202 0xFF,
    .read 0x0000 0x42]) = true := by decide +kernel

theorem test_A8_ldaIndx : gives
    { start 0x0200 [0xA1, 0xFE] [(0x0000, 0x12), (0x00FF, 0x34), (0x0100, 0x77), (0x1234, 0x5A)] with x := 0x01 }
    (fun t => t.a == 0x5A && t.pc == 0x0202 && t.trace.reverse == [.read 0x0200 0xA1, .read 0x0201 0xFE,
    .read 0x00FF 0x34, .read 0x0000 0x12, .read 0x1234 0x5A]) = true := by decide +kernel

theorem test_A9_ldaIndy : gives
    { start 0x0200 [0xB1, 0xFF] [(0x0000, 0x12), (0x00FF, 0xF0), (0x0100, 0x99), (0x1300, 0x80)] with y := 0x10 }
    (fun t => t.a == 0x80 && t.flags.n && t.pc == 0x0202 && t.trace.reverse == [.read 0x0200 0xB1,
    .read 0x0201 0xFF, .read 0x00FF 0xF0, .read 0x0000 0x12, .read 0x1300 0x80]) = true := by decide +kernel

theorem test_A10_ldxImm : gives (start 0x0200 [0xA2, 0xFF] []) (fun t => t.x == 0xFF && t.flags.n &&
    t.pc == 0x0202 && t.trace.reverse == [.read 0x0200 0xA2, .read 0x0201 0xFF]) = true := by decide +kernel

theorem test_A11_ldxZpy : gives { start 0x0200 [0xB6, 0x80] [(0x007F, 0x01)] with y := 0xFF } (fun t =>
    t.x == 0x01 && t.pc == 0x0202 && t.trace.reverse == [.read 0x0200 0xB6, .read 0x0201 0x80, .read 0x007F 0x01]) =
    true := by decide +kernel

theorem test_A12_ldxAbsy : gives
    { start 0x0200 [0xBE, 0x00, 0x20] [(0x2005, 0x00)] with y := 0x05, flags := { clear with n := true } } (fun t =>
    !t.flags.n && t.flags.z && t.pc == 0x0203 && t.trace.reverse == [.read 0x0200 0xBE, .read 0x0201 0x00,
    .read 0x0202 0x20, .read 0x2005 0x00]) = true := by decide +kernel

theorem test_A13_ldyImm : gives { start 0x0200 [0xA0, 0x7F] [] with flags := { clear with n := true, z := true } }
    (fun t => t.y == 0x7F && !t.flags.n && !t.flags.z && t.pc == 0x0202 && t.trace.reverse == [.read 0x0200 0xA0,
    .read 0x0201 0x7F]) = true := by decide +kernel

theorem test_A14_ldyZpx : gives { start 0x0200 [0xB4, 0x10] [(0x0015, 0xC0)] with x := 0x05 } (fun t =>
    t.y == 0xC0 && t.flags.n && t.pc == 0x0202 && t.trace.reverse == [.read 0x0200 0xB4, .read 0x0201 0x10,
    .read 0x0015 0xC0]) = true := by decide +kernel

theorem test_A15_ldyAbsx : gives { start 0x0200 [0xBC, 0x80, 0x30] [(0x3100, 0x11)] with x := 0x80 } (fun t =>
    t.y == 0x11 && t.pc == 0x0203 && t.trace.reverse == [.read 0x0200 0xBC, .read 0x0201 0x80, .read 0x0202 0x30,
    .read 0x3100 0x11]) = true := by decide +kernel

theorem test_A16_staZp : gives { start 0x0200 [0x85, 0x10] [] with a := 0x00, flags := { clear with n := true } }
    (fun t => t.pc == 0x0202 && t.trace.reverse == [.read 0x0200 0x85, .read 0x0201 0x10, .write 0x0010 0x00]) =
    true := by decide +kernel

theorem test_A17_staZpx : gives { start 0x0200 [0x95, 0xFF] [] with a := 0xAB, x := 0x02 } (fun t =>
    t.pc == 0x0202 && t.trace.reverse == [.read 0x0200 0x95, .read 0x0201 0xFF, .write 0x0001 0xAB]) = true :=
    by decide +kernel

theorem test_A18_staAbs : gives { start 0x0200 [0x8D, 0x00, 0x40] [] with a := 0x5A } (fun t => t.pc == 0x0203 &&
    t.trace.reverse == [.read 0x0200 0x8D, .read 0x0201 0x00, .read 0x0202 0x40, .write 0x4000 0x5A]) = true :=
    by decide +kernel

theorem test_A19_staAbsx : gives { start 0x0200 [0x9D, 0xFF, 0x40] [] with a := 0x11, x := 0x01 } (fun t =>
    t.pc == 0x0203 && t.trace.reverse == [.read 0x0200 0x9D, .read 0x0201 0xFF, .read 0x0202 0x40,
    .write 0x4100 0x11]) = true := by decide +kernel

theorem test_A20_staAbsy : gives { start 0x0200 [0x99, 0x00, 0x40] [] with a := 0x22, y := 0xFF } (fun t =>
    t.pc == 0x0203 && t.trace.reverse == [.read 0x0200 0x99, .read 0x0201 0x00, .read 0x0202 0x40,
    .write 0x40FF 0x22]) = true := by decide +kernel

theorem test_A21_staIndx : gives
    { start 0x0200 [0x81, 0x10] [(0x0014, 0x00), (0x0015, 0x30)] with a := 0x33, x := 0x04 } (fun t =>
    t.pc == 0x0202 && t.trace.reverse == [.read 0x0200 0x81, .read 0x0201 0x10, .read 0x0014 0x00,
    .read 0x0015 0x30, .write 0x3000 0x33]) = true := by decide +kernel

theorem test_A22_staIndy : gives
    { start 0x0200 [0x91, 0x10] [(0x0010, 0xFF), (0x0011, 0x2F)] with a := 0x44, y := 0x01 } (fun t =>
    t.pc == 0x0202 && t.trace.reverse == [.read 0x0200 0x91, .read 0x0201 0x10, .read 0x0010 0xFF,
    .read 0x0011 0x2F, .write 0x3000 0x44]) = true := by decide +kernel

theorem test_A23_stxZp : gives { start 0x0200 [0x86, 0x10] [] with x := 0x80 } (fun t => t.pc == 0x0202 &&
    t.trace.reverse == [.read 0x0200 0x86, .read 0x0201 0x10, .write 0x0010 0x80]) = true := by decide +kernel

theorem test_A24_stxZpy : gives { start 0x0200 [0x96, 0x10] [] with x := 0x81, y := 0xF8 } (fun t =>
    t.pc == 0x0202 && t.trace.reverse == [.read 0x0200 0x96, .read 0x0201 0x10, .write 0x0008 0x81]) = true :=
    by decide +kernel

theorem test_A25_stxAbs : gives { start 0x0200 [0x8E, 0x34, 0x12] [] with x := 0x82 } (fun t => t.pc == 0x0203 &&
    t.trace.reverse == [.read 0x0200 0x8E, .read 0x0201 0x34, .read 0x0202 0x12, .write 0x1234 0x82]) = true :=
    by decide +kernel

theorem test_A26_styZp : gives { start 0x0200 [0x84, 0x10] [] with y := 0x01 } (fun t => t.pc == 0x0202 &&
    t.trace.reverse == [.read 0x0200 0x84, .read 0x0201 0x10, .write 0x0010 0x01]) = true := by decide +kernel

theorem test_A27_styZpx : gives { start 0x0200 [0x94, 0x10] [] with x := 0x01, y := 0x02 } (fun t =>
    t.pc == 0x0202 && t.trace.reverse == [.read 0x0200 0x94, .read 0x0201 0x10, .write 0x0011 0x02]) = true :=
    by decide +kernel

theorem test_A28_styAbs : gives { start 0x0200 [0x8C, 0x34, 0x12] [] with y := 0x03 } (fun t => t.pc == 0x0203 &&
    t.trace.reverse == [.read 0x0200 0x8C, .read 0x0201 0x34, .read 0x0202 0x12, .write 0x1234 0x03]) = true :=
    by decide +kernel

theorem test_T1_tax : gives { start 0x0200 [0xAA] [] with a := 0x80, x := 0x01 } (fun t => t.x == 0x80 &&
    t.flags.n && t.pc == 0x0201 && t.trace.reverse == [.read 0x0200 0xAA]) = true := by decide +kernel

theorem test_T3_txa : gives { start 0x0200 [0x8A] [] with a := 0xFF, x := 0x7F, flags := { clear with n := true } }
    (fun t => t.a == 0x7F && !t.flags.n && t.pc == 0x0201 && t.trace.reverse == [.read 0x0200 0x8A]) = true :=
    by decide +kernel

theorem test_T4_tay : gives { start 0x0200 [0xA8] [] with a := 0xFF } (fun t => t.y == 0xFF && t.flags.n &&
    t.pc == 0x0201 && t.trace.reverse == [.read 0x0200 0xA8]) = true := by decide +kernel

theorem test_T5_tya : gives { start 0x0200 [0x98] [] with a := 0x55, y := 0x00 } (fun t => t.a == 0x00 &&
    t.flags.z && t.pc == 0x0201 && t.trace.reverse == [.read 0x0200 0x98]) = true := by decide +kernel

theorem test_M5_adcImm : gives { start 0x0200 [0x69, 0x80] [] with a := 0x80 } (fun t => t.a == 0x00 && t.flags.v &&
    t.flags.z && t.flags.c && t.pc == 0x0202 && t.trace.reverse == [.read 0x0200 0x69, .read 0x0201 0x80]) = true :=
    by decide +kernel

theorem test_M6_adcImm : gives { start 0x0200 [0x69, 0xFF] [] with a := 0xFF, flags := { clear with c := true } }
    (fun t => t.flags.n && t.pc == 0x0202 && t.trace.reverse == [.read 0x0200 0x69, .read 0x0201 0xFF]) = true :=
    by decide +kernel

theorem test_M10_adcZp : gives
    { start 0x0200 [0x65, 0x10] [(0x0010, 0x10)] with a := 0x20, flags := { clear with c := true } } (fun t =>
    t.a == 0x31 && !t.flags.c && t.pc == 0x0202 && t.trace.reverse == [.read 0x0200 0x65, .read 0x0201 0x10,
    .read 0x0010 0x10]) = true := by decide +kernel

theorem test_M11_adcAbsx : gives { start 0x0200 [0x7D, 0xF0, 0x12] [(0x1300, 0x05)] with a := 0x05, x := 0x10 } (fun
    t => t.a == 0x0A && t.pc == 0x0203 && t.trace.reverse == [.read 0x0200 0x7D, .read 0x0201 0xF0,
    .read 0x0202 0x12, .read 0x1300 0x05]) = true := by decide +kernel

theorem test_M12_adcIndy : gives
    { start 0x0200 [0x71, 0x20] [(0x0020, 0x00), (0x0021, 0x30), (0x3004, 0x40)] with a := 0x40, y := 0x04 } (fun t
    => t.a == 0x80 && t.flags.n && t.flags.v && t.pc == 0x0202 && t.trace.reverse == [.read 0x0200 0x71,
    .read 0x0201 0x20, .read 0x0020 0x00, .read 0x0021 0x30, .read 0x3004 0x40]) = true := by decide +kernel

theorem test_M15_sbcImm : gives { start 0x0200 [0xE9, 0x01] [] with a := 0x00, flags := { clear with c := true } }
    (fun t => t.a == 0xFF && t.flags.n && !t.flags.c && t.pc == 0x0202 && t.trace.reverse == [.read 0x0200 0xE9,
    .read 0x0201 0x01]) = true := by decide +kernel

theorem test_M17_sbcImm : gives { start 0x0200 [0xE9, 0xFF] [] with a := 0x7F, flags := { clear with c := true } }
    (fun t => t.a == 0x80 && t.flags.n && t.flags.v && !t.flags.c && t.pc == 0x0202 && t.trace.reverse
    == [.read 0x0200 0xE9, .read 0x0201 0xFF]) = true := by decide +kernel

theorem test_M20_sbcZp : gives
    { start 0x0200 [0xE5, 0x10] [(0x0010, 0x30)] with a := 0x50, flags := { clear with c := true } } (fun t =>
    t.a == 0x20 && t.pc == 0x0202 && t.trace.reverse == [.read 0x0200 0xE5, .read 0x0201 0x10, .read 0x0010 0x30]) =
    true := by decide +kernel

theorem test_M21_sbcAbsy : gives { start 0x0200 [0xF9, 0x01, 0x10] [(0x1100, 0x01)] with a := 0x00, y := 0xFF } (fun
    t => t.a == 0xFE && t.flags.n && t.pc == 0x0203 && t.trace.reverse == [.read 0x0200 0xF9, .read 0x0201 0x01,
    .read 0x0202 0x10, .read 0x1100 0x01]) = true := by decide +kernel

theorem test_M22_incZp : gives
    { start 0x0200 [0xE6, 0x10] [(0x0010, 0xFF)] with flags := { clear with v := true, c := true } } (fun t =>
    t.flags.z && t.pc == 0x0202 && t.trace.reverse == [.read 0x0200 0xE6, .read 0x0201 0x10, .read 0x0010 0xFF,
    .write 0x0010 0xFF, .write 0x0010 0x00]) = true := by decide +kernel

theorem test_M23_incZpx : gives { start 0x0200 [0xF6, 0x10] [(0x0012, 0x7F)] with x := 0x02 } (fun t => t.flags.n &&
    t.pc == 0x0202 && t.trace.reverse == [.read 0x0200 0xF6, .read 0x0201 0x10, .read 0x0012 0x7F,
    .write 0x0012 0x7F, .write 0x0012 0x80]) = true := by decide +kernel

theorem test_M24_incAbs : gives (start 0x0200 [0xEE, 0x00, 0x30] [(0x3000, 0x00)]) (fun t => t.pc == 0x0203 &&
    t.trace.reverse == [.read 0x0200 0xEE, .read 0x0201 0x00, .read 0x0202 0x30, .read 0x3000 0x00,
    .write 0x3000 0x00, .write 0x3000 0x01]) = true := by decide +kernel

theorem test_M25_incAbsx : gives { start 0x0200 [0xFE, 0xFF, 0x30] [(0x3100, 0x0F)] with x := 0x01 } (fun t =>
    t.pc == 0x0203 && t.trace.reverse == [.read 0x0200 0xFE, .read 0x0201 0xFF, .read 0x0202 0x30,
    .read 0x3100 0x0F, .write 0x3100 0x0F, .write 0x3100 0x10]) = true := by decide +kernel

theorem test_M26_decZp : gives (start 0x0200 [0xC6, 0x10] [(0x0010, 0x00)]) (fun t => t.flags.n && t.pc == 0x0202 &&
    t.trace.reverse == [.read 0x0200 0xC6, .read 0x0201 0x10, .read 0x0010 0x00, .write 0x0010 0x00,
    .write 0x0010 0xFF]) = true := by decide +kernel

theorem test_M27_decZpx : gives { start 0x0200 [0xD6, 0x10] [(0x0011, 0x01)] with x := 0x01 } (fun t => t.flags.z &&
    t.pc == 0x0202 && t.trace.reverse == [.read 0x0200 0xD6, .read 0x0201 0x10, .read 0x0011 0x01,
    .write 0x0011 0x01, .write 0x0011 0x00]) = true := by decide +kernel

theorem test_M28_decAbs : gives (start 0x0200 [0xCE, 0x00, 0x30] [(0x3000, 0x80)]) (fun t => t.pc == 0x0203 &&
    t.trace.reverse == [.read 0x0200 0xCE, .read 0x0201 0x00, .read 0x0202 0x30, .read 0x3000 0x80,
    .write 0x3000 0x80, .write 0x3000 0x7F]) = true := by decide +kernel

theorem test_M29_decAbsx : gives { start 0x0200 [0xDE, 0x00, 0x30] [(0x3005, 0x10)] with x := 0x05 } (fun t =>
    t.pc == 0x0203 && t.trace.reverse == [.read 0x0200 0xDE, .read 0x0201 0x00, .read 0x0202 0x30,
    .read 0x3005 0x10, .write 0x3005 0x10, .write 0x3005 0x0F]) = true := by decide +kernel

theorem test_M30_inx : gives { start 0x0200 [0xE8] [] with x := 0xFF } (fun t => t.x == 0x00 && t.flags.z &&
    t.pc == 0x0201 && t.trace.reverse == [.read 0x0200 0xE8]) = true := by decide +kernel

theorem test_M32_dex : gives { start 0x0200 [0xCA] [] with x := 0x00 } (fun t => t.x == 0xFF && t.flags.n &&
    t.pc == 0x0201 && t.trace.reverse == [.read 0x0200 0xCA]) = true := by decide +kernel

theorem test_M34_iny : gives { start 0x0200 [0xC8] [] with y := 0xFF } (fun t => t.y == 0x00 && t.flags.z &&
    t.pc == 0x0201 && t.trace.reverse == [.read 0x0200 0xC8]) = true := by decide +kernel

theorem test_M35_dey : gives { start 0x0200 [0x88] [] with y := 0x00 } (fun t => t.y == 0xFF && t.flags.n &&
    t.pc == 0x0201 && t.trace.reverse == [.read 0x0200 0x88]) = true := by decide +kernel

theorem test_SH1_aslAcc : gives { start 0x0200 [0x0A] [] with a := 0x80 } (fun t => t.a == 0x00 && t.flags.z &&
    t.flags.c && t.pc == 0x0201 && t.trace.reverse == [.read 0x0200 0x0A]) = true := by decide +kernel

theorem test_SH2_aslAcc : gives { start 0x0200 [0x0A] [] with a := 0x40, flags := { clear with c := true } } (fun t
    => t.a == 0x80 && t.flags.n && !t.flags.c && t.pc == 0x0201 && t.trace.reverse == [.read 0x0200 0x0A]) = true :=
    by decide +kernel

theorem test_SH3_aslZp : gives (start 0x0200 [0x06, 0x10] [(0x0010, 0xC1)]) (fun t => t.flags.n && t.flags.c &&
    t.pc == 0x0202 && t.trace.reverse == [.read 0x0200 0x06, .read 0x0201 0x10, .read 0x0010 0xC1,
    .write 0x0010 0xC1, .write 0x0010 0x82]) = true := by decide +kernel

theorem test_SH4_aslZpx : gives { start 0x0200 [0x16, 0x10] [(0x0013, 0x01)] with x := 0x03 } (fun t =>
    t.pc == 0x0202 && t.trace.reverse == [.read 0x0200 0x16, .read 0x0201 0x10, .read 0x0013 0x01,
    .write 0x0013 0x01, .write 0x0013 0x02]) = true := by decide +kernel

theorem test_SH5_aslAbs : gives (start 0x0200 [0x0E, 0x00, 0x30] [(0x3000, 0x7F)]) (fun t => t.flags.n &&
    t.pc == 0x0203 && t.trace.reverse == [.read 0x0200 0x0E, .read 0x0201 0x00, .read 0x0202 0x30,
    .read 0x3000 0x7F, .write 0x3000 0x7F, .write 0x3000 0xFE]) = true := by decide +kernel

theorem test_SH6_aslAbsx : gives { start 0x0200 [0x1E, 0x00, 0x30] [(0x3001, 0xFF)] with x := 0x01 } (fun t =>
    t.flags.n && t.flags.c && t.pc == 0x0203 && t.trace.reverse == [.read 0x0200 0x1E, .read 0x0201 0x00,
    .read 0x0202 0x30, .read 0x3001 0xFF, .write 0x3001 0xFF, .write 0x3001 0xFE]) = true := by decide +kernel

theorem test_SH7_lsrAcc : gives { start 0x0200 [0x4A] [] with a := 0x01, flags := { clear with n := true } } (fun t
    => t.a == 0x00 && !t.flags.n && t.flags.z && t.flags.c && t.pc == 0x0201 && t.trace.reverse
    == [.read 0x0200 0x4A]) = true := by decide +kernel

theorem test_SH8_lsrAcc : gives { start 0x0200 [0x4A] [] with a := 0xFF } (fun t => t.a == 0x7F && t.flags.c &&
    t.pc == 0x0201 && t.trace.reverse == [.read 0x0200 0x4A]) = true := by decide +kernel

theorem test_SH9_lsrZp : gives { start 0x0200 [0x46, 0x10] [(0x0010, 0x02)] with flags := { clear with c := true } }
    (fun t => !t.flags.c && t.pc == 0x0202 && t.trace.reverse == [.read 0x0200 0x46, .read 0x0201 0x10,
    .read 0x0010 0x02, .write 0x0010 0x02, .write 0x0010 0x01]) = true := by decide +kernel

theorem test_SH10_lsrZpx : gives { start 0x0200 [0x56, 0x10] [(0x0020, 0x81)] with x := 0x10 } (fun t =>
    t.flags.c && t.pc == 0x0202 && t.trace.reverse == [.read 0x0200 0x56, .read 0x0201 0x10, .read 0x0020 0x81,
    .write 0x0020 0x81, .write 0x0020 0x40]) = true := by decide +kernel

theorem test_SH11_lsrAbs : gives
    { start 0x0200 [0x4E, 0x00, 0x30] [(0x3000, 0x00)] with flags := { clear with c := true } } (fun t =>
    t.flags.z && !t.flags.c && t.pc == 0x0203 && t.trace.reverse == [.read 0x0200 0x4E, .read 0x0201 0x00,
    .read 0x0202 0x30, .read 0x3000 0x00, .write 0x3000 0x00, .write 0x3000 0x00]) = true := by decide +kernel

theorem test_SH12_lsrAbsx : gives { start 0x0200 [0x5E, 0xF0, 0x30] [(0x3100, 0x03)] with x := 0x10 } (fun t =>
    t.flags.c && t.pc == 0x0203 && t.trace.reverse == [.read 0x0200 0x5E, .read 0x0201 0xF0, .read 0x0202 0x30,
    .read 0x3100 0x03, .write 0x3100 0x03, .write 0x3100 0x01]) = true := by decide +kernel

theorem test_SH13_rolAcc : gives { start 0x0200 [0x2A] [] with a := 0x80, flags := { clear with c := true } } (fun t
    => t.a == 0x01 && t.pc == 0x0201 && t.trace.reverse == [.read 0x0200 0x2A]) = true := by decide +kernel

theorem test_SH14_rolAcc : gives { start 0x0200 [0x2A] [] with a := 0x80 } (fun t => t.a == 0x00 && t.flags.z &&
    t.flags.c && t.pc == 0x0201 && t.trace.reverse == [.read 0x0200 0x2A]) = true := by decide +kernel

theorem test_SH15_rolZp : gives
    { start 0x0200 [0x26, 0x10] [(0x0010, 0x55)] with flags := { clear with c := true } } (fun t => t.flags.n &&
    !t.flags.c && t.pc == 0x0202 && t.trace.reverse == [.read 0x0200 0x26, .read 0x0201 0x10, .read 0x0010 0x55,
    .write 0x0010 0x55, .write 0x0010 0xAB]) = true := by decide +kernel

theorem test_SH16_rolZpx : gives { start 0x0200 [0x36, 0x10] [(0x0011, 0x40)] with x := 0x01 } (fun t =>
    t.flags.n && t.pc == 0x0202 && t.trace.reverse == [.read 0x0200 0x36, .read 0x0201 0x10, .read 0x0011 0x40,
    .write 0x0011 0x40, .write 0x0011 0x80]) = true := by decide +kernel

theorem test_SH17_rolAbs : gives (start 0x0200 [0x2E, 0x00, 0x30] [(0x3000, 0xFF)]) (fun t => t.flags.n &&
    t.flags.c && t.pc == 0x0203 && t.trace.reverse == [.read 0x0200 0x2E, .read 0x0201 0x00, .read 0x0202 0x30,
    .read 0x3000 0xFF, .write 0x3000 0xFF, .write 0x3000 0xFE]) = true := by decide +kernel

theorem test_SH18_rolAbsx : gives
    { start 0x0200 [0x3E, 0x00, 0x30] [(0x3002, 0x01)] with x := 0x02, flags := { clear with c := true } } (fun t =>
    !t.flags.c && t.pc == 0x0203 && t.trace.reverse == [.read 0x0200 0x3E, .read 0x0201 0x00, .read 0x0202 0x30,
    .read 0x3002 0x01, .write 0x3002 0x01, .write 0x3002 0x03]) = true := by decide +kernel

theorem test_SH19_rorAcc : gives { start 0x0200 [0x6A] [] with a := 0x01, flags := { clear with c := true } } (fun t
    => t.a == 0x80 && t.flags.n && t.pc == 0x0201 && t.trace.reverse == [.read 0x0200 0x6A]) = true :=
    by decide +kernel

theorem test_SH20_rorAcc : gives { start 0x0200 [0x6A] [] with a := 0x01 } (fun t => t.a == 0x00 && t.flags.z &&
    t.flags.c && t.pc == 0x0201 && t.trace.reverse == [.read 0x0200 0x6A]) = true := by decide +kernel

theorem test_SH21_rorZp : gives
    { start 0x0200 [0x66, 0x10] [(0x0010, 0xAA)] with flags := { clear with c := true } } (fun t => t.flags.n &&
    !t.flags.c && t.pc == 0x0202 && t.trace.reverse == [.read 0x0200 0x66, .read 0x0201 0x10, .read 0x0010 0xAA,
    .write 0x0010 0xAA, .write 0x0010 0xD5]) = true := by decide +kernel

theorem test_SH22_rorZpx : gives { start 0x0200 [0x76, 0x10] [(0x0011, 0x02)] with x := 0x01 } (fun t =>
    t.pc == 0x0202 && t.trace.reverse == [.read 0x0200 0x76, .read 0x0201 0x10, .read 0x0011 0x02,
    .write 0x0011 0x02, .write 0x0011 0x01]) = true := by decide +kernel

theorem test_SH23_rorAbs : gives
    { start 0x0200 [0x6E, 0x00, 0x30] [(0x3000, 0x00)] with flags := { clear with c := true } } (fun t =>
    t.flags.n && !t.flags.c && t.pc == 0x0203 && t.trace.reverse == [.read 0x0200 0x6E, .read 0x0201 0x00,
    .read 0x0202 0x30, .read 0x3000 0x00, .write 0x3000 0x00, .write 0x3000 0x80]) = true := by decide +kernel

theorem test_SH24_rorAbsx : gives { start 0x0200 [0x7E, 0x00, 0x30] [(0x3003, 0xFF)] with x := 0x03 } (fun t =>
    t.flags.c && t.pc == 0x0203 && t.trace.reverse == [.read 0x0200 0x7E, .read 0x0201 0x00, .read 0x0202 0x30,
    .read 0x3003 0xFF, .write 0x3003 0xFF, .write 0x3003 0x7F]) = true := by decide +kernel

theorem test_B1_andImm : gives { start 0x0200 [0x29, 0x0F] [] with a := 0xF0 } (fun t => t.a == 0x00 && t.flags.z &&
    t.pc == 0x0202 && t.trace.reverse == [.read 0x0200 0x29, .read 0x0201 0x0F]) = true := by decide +kernel

theorem test_B3_andZp : gives { start 0x0200 [0x25, 0x10] [(0x0010, 0x81)] with a := 0xC3 } (fun t => t.a == 0x81 &&
    t.flags.n && t.pc == 0x0202 && t.trace.reverse == [.read 0x0200 0x25, .read 0x0201 0x10, .read 0x0010 0x81]) =
    true := by decide +kernel

theorem test_B4_andIndy : gives
    { start 0x0200 [0x31, 0x10] [(0x0010, 0xFF), (0x0011, 0x00), (0x0100, 0x3C)] with a := 0xFF, y := 0x01 } (fun t
    => t.a == 0x3C && t.pc == 0x0202 && t.trace.reverse == [.read 0x0200 0x31, .read 0x0201 0x10, .read 0x0010 0xFF,
    .read 0x0011 0x00, .read 0x0100 0x3C]) = true := by decide +kernel

theorem test_B5_oraImm : gives { start 0x0200 [0x09, 0x00] [] with a := 0x00, flags := { clear with n := true } }
    (fun t => !t.flags.n && t.flags.z && t.pc == 0x0202 && t.trace.reverse == [.read 0x0200 0x09,
    .read 0x0201 0x00]) = true := by decide +kernel

theorem test_B7_oraAbsx : gives { start 0x0200 [0x1D, 0x00, 0x30] [(0x3010, 0x0F)] with a := 0xF0, x := 0x10 } (fun
    t => t.a == 0xFF && t.flags.n && t.pc == 0x0203 && t.trace.reverse == [.read 0x0200 0x1D, .read 0x0201 0x00,
    .read 0x0202 0x30, .read 0x3010 0x0F]) = true := by decide +kernel

theorem test_B8_oraIndx : gives
    { start 0x0200 [0x01, 0x10] [(0x0010, 0x00), (0x0011, 0x40), (0x4000, 0x55)] with a := 0xAA, x := 0x00 } (fun t
    => t.a == 0xFF && t.flags.n && t.pc == 0x0202 && t.trace.reverse == [.read 0x0200 0x01, .read 0x0201 0x10,
    .read 0x0010 0x00, .read 0x0011 0x40, .read 0x4000 0x55]) = true := by decide +kernel

theorem test_B9_eorImm : gives { start 0x0200 [0x49, 0xFF] [] with a := 0x55 } (fun t => t.a == 0xAA && t.flags.n &&
    t.pc == 0x0202 && t.trace.reverse == [.read 0x0200 0x49, .read 0x0201 0xFF]) = true := by decide +kernel

theorem test_B11_eorAbsy : gives { start 0x0200 [0x59, 0x00, 0x30] [(0x30FF, 0x0F)] with a := 0xFF, y := 0xFF } (fun
    t => t.a == 0xF0 && t.flags.n && t.pc == 0x0203 && t.trace.reverse == [.read 0x0200 0x59, .read 0x0201 0x00,
    .read 0x0202 0x30, .read 0x30FF 0x0F]) = true := by decide +kernel

theorem test_B12_bitZp : gives { start 0x0200 [0x24, 0x10] [(0x0010, 0xC0)] with a := 0x3F } (fun t => t.flags.n &&
    t.flags.v && t.flags.z && t.pc == 0x0202 && t.trace.reverse == [.read 0x0200 0x24, .read 0x0201 0x10,
    .read 0x0010 0xC0]) = true := by decide +kernel

theorem test_B13_bitZp : gives
    { start 0x0200 [0x24, 0x10] [(0x0010, 0x01)] with a := 0x01, flags := { clear with n := true, v := true } } (fun
    t => !t.flags.n && !t.flags.v && t.pc == 0x0202 && t.trace.reverse == [.read 0x0200 0x24, .read 0x0201 0x10,
    .read 0x0010 0x01]) = true := by decide +kernel

theorem test_B14_bitAbs : gives { start 0x0200 [0x2C, 0x00, 0x30] [(0x3000, 0x40)] with a := 0xFF } (fun t =>
    t.flags.v && t.pc == 0x0203 && t.trace.reverse == [.read 0x0200 0x2C, .read 0x0201 0x00, .read 0x0202 0x30,
    .read 0x3000 0x40]) = true := by decide +kernel

theorem test_CP2_cmpImm : gives { start 0x0200 [0xC9, 0x11] [] with a := 0x10, flags := { clear with c := true } }
    (fun t => t.flags.n && !t.flags.c && t.pc == 0x0202 && t.trace.reverse == [.read 0x0200 0xC9,
    .read 0x0201 0x11]) = true := by decide +kernel

theorem test_CP6_cmpImm : gives { start 0x0200 [0xC9, 0x00] [] with a := 0x80 } (fun t => t.flags.n && t.flags.c &&
    t.pc == 0x0202 && t.trace.reverse == [.read 0x0200 0xC9, .read 0x0201 0x00]) = true := by decide +kernel

theorem test_CP7_cmpZp : gives { start 0x0200 [0xC5, 0x10] [(0x0010, 0x7F)] with a := 0xFF } (fun t => t.flags.n &&
    t.flags.c && t.pc == 0x0202 && t.trace.reverse == [.read 0x0200 0xC5, .read 0x0201 0x10, .read 0x0010 0x7F]) =
    true := by decide +kernel

theorem test_CP8_cmpZpx : gives { start 0x0200 [0xD5, 0x10] [(0x0011, 0x01)] with a := 0x00, x := 0x01 } (fun t =>
    t.flags.n && t.pc == 0x0202 && t.trace.reverse == [.read 0x0200 0xD5, .read 0x0201 0x10, .read 0x0011 0x01]) =
    true := by decide +kernel

theorem test_CP9_cmpAbs : gives { start 0x0200 [0xCD, 0x00, 0x30] [(0x3000, 0x55)] with a := 0x55 } (fun t =>
    t.flags.z && t.flags.c && t.pc == 0x0203 && t.trace.reverse == [.read 0x0200 0xCD, .read 0x0201 0x00,
    .read 0x0202 0x30, .read 0x3000 0x55]) = true := by decide +kernel

theorem test_CP10_cmpAbsx : gives { start 0x0200 [0xDD, 0x00, 0x30] [(0x3001, 0x00)] with a := 0x00, x := 0x01 }
    (fun t => t.flags.z && t.flags.c && t.pc == 0x0203 && t.trace.reverse == [.read 0x0200 0xDD, .read 0x0201 0x00,
    .read 0x0202 0x30, .read 0x3001 0x00]) = true := by decide +kernel

theorem test_CP11_cmpAbsy : gives { start 0x0200 [0xD9, 0xFF, 0x30] [(0x3100, 0x02)] with a := 0x01, y := 0x01 }
    (fun t => t.flags.n && t.pc == 0x0203 && t.trace.reverse == [.read 0x0200 0xD9, .read 0x0201 0xFF,
    .read 0x0202 0x30, .read 0x3100 0x02]) = true := by decide +kernel

theorem test_CP12_cmpIndx : gives
    { start 0x0200 [0xC1, 0x10] [(0x0010, 0x00), (0x0011, 0x30), (0x3000, 0x01)] with a := 0x02 } (fun t =>
    t.flags.c && t.pc == 0x0202 && t.trace.reverse == [.read 0x0200 0xC1, .read 0x0201 0x10, .read 0x0010 0x00,
    .read 0x0011 0x30, .read 0x3000 0x01]) = true := by decide +kernel

theorem test_CP13_cmpIndy : gives
    { start 0x0200 [0xD1, 0x10] [(0x0010, 0x00), (0x0011, 0x30), (0x3001, 0x03)] with a := 0x02, y := 0x01 } (fun t
    => t.flags.n && t.pc == 0x0202 && t.trace.reverse == [.read 0x0200 0xD1, .read 0x0201 0x10, .read 0x0010 0x00,
    .read 0x0011 0x30, .read 0x3001 0x03]) = true := by decide +kernel

theorem test_CP14_cpxImm : gives { start 0x0200 [0xE0, 0x05] [] with x := 0x05 } (fun t => t.flags.z && t.flags.c &&
    t.pc == 0x0202 && t.trace.reverse == [.read 0x0200 0xE0, .read 0x0201 0x05]) = true := by decide +kernel

theorem test_CP15_cpxZp : gives { start 0x0200 [0xE4, 0x10] [(0x0010, 0x06)] with x := 0x05 } (fun t => t.flags.n &&
    t.pc == 0x0202 && t.trace.reverse == [.read 0x0200 0xE4, .read 0x0201 0x10, .read 0x0010 0x06]) = true :=
    by decide +kernel

theorem test_CP16_cpxAbs : gives { start 0x0200 [0xEC, 0x00, 0x30] [(0x3000, 0x04)] with x := 0x05 } (fun t =>
    t.flags.c && t.pc == 0x0203 && t.trace.reverse == [.read 0x0200 0xEC, .read 0x0201 0x00, .read 0x0202 0x30,
    .read 0x3000 0x04]) = true := by decide +kernel

theorem test_CP17_cpyImm : gives { start 0x0200 [0xC0, 0x00] [] with y := 0x00 } (fun t => t.flags.z && t.flags.c &&
    t.pc == 0x0202 && t.trace.reverse == [.read 0x0200 0xC0, .read 0x0201 0x00]) = true := by decide +kernel

theorem test_CP18_cpyZp : gives { start 0x0200 [0xC4, 0x10] [(0x0010, 0x80)] with y := 0x7F } (fun t => t.flags.n &&
    t.pc == 0x0202 && t.trace.reverse == [.read 0x0200 0xC4, .read 0x0201 0x10, .read 0x0010 0x80]) = true :=
    by decide +kernel

theorem test_CP19_cpyAbs : gives { start 0x0200 [0xCC, 0x00, 0x30] [(0x3000, 0x7F)] with y := 0x80 } (fun t =>
    t.flags.c && t.pc == 0x0203 && t.trace.reverse == [.read 0x0200 0xCC, .read 0x0201 0x00, .read 0x0202 0x30,
    .read 0x3000 0x7F]) = true := by decide +kernel

theorem test_J1_bcc : gives (start 0x0200 [0x90, 0x05] []) (fun t => t.pc == 0x0207 && t.trace.reverse
    == [.read 0x0200 0x90, .read 0x0201 0x05]) = true := by decide +kernel

theorem test_J2_bcc : gives { start 0x0200 [0x90, 0x05] [] with flags := { clear with c := true } } (fun t =>
    t.pc == 0x0202 && t.trace.reverse == [.read 0x0200 0x90, .read 0x0201 0x05]) = true := by decide +kernel

theorem test_J3_bcs : gives { start 0x0200 [0xB0, 0xFE] [] with flags := { clear with c := true } } (fun t =>
    t.pc == 0x0200 && t.trace.reverse == [.read 0x0200 0xB0, .read 0x0201 0xFE]) = true := by decide +kernel

theorem test_J5_beq : gives { start 0x0200 [0xF0, 0x7F] [] with flags := { clear with z := true } } (fun t =>
    t.pc == 0x0281 && t.trace.reverse == [.read 0x0200 0xF0, .read 0x0201 0x7F]) = true := by decide +kernel

theorem test_J6_beq : gives { start 0xFFF0 [0xF0, 0x20] [] with flags := { clear with z := true } } (fun t =>
    t.pc == 0x0012 && t.trace.reverse == [.read 0xFFF0 0xF0, .read 0xFFF1 0x20]) = true := by decide +kernel

theorem test_J7_bne : gives (start 0x0200 [0xD0, 0xFB] []) (fun t => t.pc == 0x01FD && t.trace.reverse
    == [.read 0x0200 0xD0, .read 0x0201 0xFB]) = true := by decide +kernel

theorem test_J9_bpl : gives (start 0x0200 [0x10, 0x80] []) (fun t => t.pc == 0x0182 && t.trace.reverse
    == [.read 0x0200 0x10, .read 0x0201 0x80]) = true := by decide +kernel

theorem test_J10_bmi : gives { start 0x0010 [0x30, 0x80] [] with flags := { clear with n := true } } (fun t =>
    t.pc == 0xFF92 && t.trace.reverse == [.read 0x0010 0x30, .read 0x0011 0x80]) = true := by decide +kernel

theorem test_J12_bvc : gives (start 0x0200 [0x50, 0x02] []) (fun t => t.pc == 0x0204 && t.trace.reverse
    == [.read 0x0200 0x50, .read 0x0201 0x02]) = true := by decide +kernel

theorem test_J13_bvs : gives { start 0x0200 [0x70, 0xF0] [] with flags := { clear with v := true } } (fun t =>
    t.pc == 0x01F2 && t.trace.reverse == [.read 0x0200 0x70, .read 0x0201 0xF0]) = true := by decide +kernel

theorem test_J14_bvs : gives (start 0x0200 [0x70, 0xF0] []) (fun t => t.pc == 0x0202 && t.trace.reverse
    == [.read 0x0200 0x70, .read 0x0201 0xF0]) = true := by decide +kernel

theorem test_J15_bne : gives (start 0xFFFE [0xD0, 0x01] []) (fun t => t.pc == 0x0001 && t.trace.reverse
    == [.read 0xFFFE 0xD0, .read 0xFFFF 0x01]) = true := by decide +kernel

theorem test_K1_jmpAbs : gives (start 0x0200 [0x4C, 0x34, 0x12] []) (fun t => t.pc == 0x1234 && t.trace.reverse
    == [.read 0x0200 0x4C, .read 0x0201 0x34, .read 0x0202 0x12]) = true := by decide +kernel

theorem test_K3_jmpInd : gives (start 0x0200 [0x6C, 0xFF, 0x03] [(0x0300, 0x80), (0x03FF, 0x40), (0x0400, 0x50)])
    (fun t => t.pc == 0x8040 && t.trace.reverse == [.read 0x0200 0x6C, .read 0x0201 0xFF, .read 0x0202 0x03,
    .read 0x03FF 0x40, .read 0x0300 0x80]) = true := by decide +kernel

theorem test_K4_jmpInd : gives (start 0x0200 [0x6C, 0xFF, 0x00] [(0x0000, 0x22), (0x00FF, 0x11), (0x0100, 0x33)])
    (fun t => t.pc == 0x2211 && t.trace.reverse == [.read 0x0200 0x6C, .read 0x0201 0xFF, .read 0x0202 0x00,
    .read 0x00FF 0x11, .read 0x0000 0x22]) = true := by decide +kernel

theorem test_K6_jsr : gives (start 0x02FE [0x20, 0x00, 0x30] []) (fun t => t.sp == 0xFD && t.pc == 0x3000 &&
    t.trace.reverse == [.read 0x02FE 0x20, .read 0x02FF 0x00, .read 0x0300 0x30, .write 0x01FF 0x03,
    .write 0x01FE 0x00]) = true := by decide +kernel

theorem test_K7_jsr : gives { start 0x0200 [0x20, 0x00, 0x30] [] with sp := 0x00 } (fun t => t.sp == 0xFE &&
    t.pc == 0x3000 && t.trace.reverse == [.read 0x0200 0x20, .read 0x0201 0x00, .read 0x0202 0x30,
    .write 0x0100 0x02, .write 0x01FF 0x02]) = true := by decide +kernel

theorem test_K8_rts : gives { start 0x3000 [0x60] [(0x01FE, 0x02), (0x01FF, 0x02)] with sp := 0xFD } (fun t =>
    t.sp == 0xFF && t.pc == 0x0203 && t.trace.reverse == [.read 0x3000 0x60, .read 0x01FE 0x02, .read 0x01FF 0x02])
    = true := by decide +kernel

theorem test_K9_rts : gives { start 0x0200 [0x60] [(0x0100, 0xFF), (0x01FF, 0xFF)] with sp := 0xFE } (fun t =>
    t.sp == 0x00 && t.pc == 0x0000 && t.trace.reverse == [.read 0x0200 0x60, .read 0x01FF 0xFF, .read 0x0100 0xFF])
    = true := by decide +kernel

theorem test_K11_brk : gives
    { start 0x12FF [0x00] [(0xFFFE, 0x00), (0xFFFF, 0x80)] with flags := { clear with i := true } } (fun t =>
    t.sp == 0xFC && t.pc == 0x8000 && t.trace.reverse == [.read 0x12FF 0x00, .write 0x01FF 0x13, .write 0x01FE 0x01,
    .write 0x01FD 0x34, .read 0xFFFE 0x00, .read 0xFFFF 0x80]) = true := by decide +kernel

theorem test_K12_brk : gives { start 0x0200 [0x00] [(0xFFFE, 0x34), (0xFFFF, 0x12)] with sp := 0x01 } (fun t =>
    t.sp == 0xFE && t.flags.i && t.pc == 0x1234 && t.trace.reverse == [.read 0x0200 0x00, .write 0x0101 0x02,
    .write 0x0100 0x02, .write 0x01FF 0x30, .read 0xFFFE 0x34, .read 0xFFFF 0x12]) = true := by decide +kernel

theorem test_K13_rti : gives
    { start 0x8000 [0x40] [(0x01FD, 0xFF), (0x01FE, 0x02), (0x01FF, 0x02)] with sp := 0xFC } (fun t =>
    t.sp == 0xFF && t.flags.n && t.flags.v && t.flags.d && t.flags.i && t.flags.z && t.flags.c && t.pc == 0x0202 &&
    t.trace.reverse == [.read 0x8000 0x40, .read 0x01FD 0xFF, .read 0x01FE 0x02, .read 0x01FF 0x02]) = true :=
    by decide +kernel

theorem test_K14_rti : gives
    { start 0x8000 [0x40] [(0x01FD, 0x30), (0x01FE, 0x34), (0x01FF, 0x12)] with sp := 0xFC, flags := { clear with n := true, i := true, c := true } }
    (fun t => t.sp == 0xFF && !t.flags.n && !t.flags.i && !t.flags.c && t.pc == 0x1234 && t.trace.reverse
    == [.read 0x8000 0x40, .read 0x01FD 0x30, .read 0x01FE 0x34, .read 0x01FF 0x12]) = true := by decide +kernel

theorem test_P1_pha : gives { start 0x0200 [0x48] [] with a := 0x42 } (fun t => t.sp == 0xFE && t.pc == 0x0201 &&
    t.trace.reverse == [.read 0x0200 0x48, .write 0x01FF 0x42]) = true := by decide +kernel

theorem test_P3_pla : gives { start 0x0200 [0x68] [(0x01FF, 0x80)] with sp := 0xFE } (fun t => t.a == 0x80 &&
    t.sp == 0xFF && t.flags.n && t.pc == 0x0201 && t.trace.reverse == [.read 0x0200 0x68, .read 0x01FF 0x80]) = true
    := by decide +kernel

theorem test_P4_pla : gives
    { start 0x0200 [0x68] [(0x0100, 0x00)] with sp := 0xFF, flags := { clear with n := true } } (fun t =>
    t.sp == 0x00 && !t.flags.n && t.flags.z && t.pc == 0x0201 && t.trace.reverse == [.read 0x0200 0x68,
    .read 0x0100 0x00]) = true := by decide +kernel

theorem test_P6_php : gives
    { start 0x0200 [0x08] [] with flags := { clear with n := true, v := true, d := true, i := true, z := true, c := true } }
    (fun t => t.sp == 0xFE && t.pc == 0x0201 && t.trace.reverse == [.read 0x0200 0x08, .write 0x01FF 0xFF]) = true
    := by decide +kernel

theorem test_P7_php : gives { start 0x0200 [0x08] [] with sp := 0x80, flags := { clear with i := true, c := true } }
    (fun t => t.sp == 0x7F && t.pc == 0x0201 && t.trace.reverse == [.read 0x0200 0x08, .write 0x0180 0x35]) = true
    := by decide +kernel

theorem test_P9_plp : gives
    { start 0x0200 [0x28] [(0x01FF, 0x00)] with sp := 0xFE, flags := { clear with n := true, v := true, d := true, i := true, z := true, c := true } }
    (fun t => t.sp == 0xFF && !t.flags.n && !t.flags.v && !t.flags.d && !t.flags.i && !t.flags.z && !t.flags.c &&
    t.pc == 0x0201 && t.trace.reverse == [.read 0x0200 0x28, .read 0x01FF 0x00]) = true := by decide +kernel

theorem test_P10_plp : gives
    { start 0x0200 [0x28] [(0x01FF, 0xC3)] with sp := 0xFE, flags := { clear with i := true } } (fun t =>
    t.sp == 0xFF && t.flags.n && t.flags.v && !t.flags.i && t.flags.z && t.flags.c && t.pc == 0x0201 &&
    t.trace.reverse == [.read 0x0200 0x28, .read 0x01FF 0xC3]) = true := by decide +kernel

theorem test_P12_txs : gives { start 0x0200 [0x9A] [] with x := 0x00, flags := { clear with n := true } } (fun t =>
    t.sp == 0x00 && t.pc == 0x0201 && t.trace.reverse == [.read 0x0200 0x9A]) = true := by decide +kernel

theorem test_P14_tsx : gives { start 0x0200 [0xBA] [] with x := 0x05, sp := 0x00 } (fun t => t.x == 0x00 &&
    t.flags.z && t.pc == 0x0201 && t.trace.reverse == [.read 0x0200 0xBA]) = true := by decide +kernel

theorem test_F1_clc : gives { start 0x0200 [0x18] [] with flags := { clear with c := true } } (fun t =>
    !t.flags.c && t.pc == 0x0201 && t.trace.reverse == [.read 0x0200 0x18]) = true := by decide +kernel

theorem test_F2_sec : gives (start 0x0200 [0x38] []) (fun t => t.flags.c && t.pc == 0x0201 && t.trace.reverse
    == [.read 0x0200 0x38]) = true := by decide +kernel

theorem test_F3_cli : gives { start 0x0200 [0x58] [] with flags := { clear with i := true } } (fun t =>
    !t.flags.i && t.pc == 0x0201 && t.trace.reverse == [.read 0x0200 0x58]) = true := by decide +kernel

theorem test_F4_sei : gives (start 0x0200 [0x78] []) (fun t => t.flags.i && t.pc == 0x0201 && t.trace.reverse
    == [.read 0x0200 0x78]) = true := by decide +kernel

theorem test_F5_cld : gives { start 0x0200 [0xD8] [] with flags := { clear with d := true } } (fun t =>
    !t.flags.d && t.pc == 0x0201 && t.trace.reverse == [.read 0x0200 0xD8]) = true := by decide +kernel

theorem test_F6_sed : gives (start 0x0200 [0xF8] []) (fun t => t.flags.d && t.pc == 0x0201 && t.trace.reverse
    == [.read 0x0200 0xF8]) = true := by decide +kernel

theorem test_F7_clv : gives { start 0x0200 [0xB8] [] with flags := { clear with v := true } } (fun t =>
    !t.flags.v && t.pc == 0x0201 && t.trace.reverse == [.read 0x0200 0xB8]) = true := by decide +kernel

theorem test_F8_nop : gives
    { start 0x0200 [0xEA] [] with a := 0x01, x := 0x02, y := 0x03, flags := { clear with n := true, v := true, d := true, i := true, z := true, c := true } }
    (fun t => t.pc == 0x0201 && t.trace.reverse == [.read 0x0200 0xEA]) = true := by decide +kernel

-- Undocumented opcodes (vectors X1, X2, X5)

theorem test_X1_refused : refuses (start 0x0200 [0x02] []) (.undocumentedOpcode 0x02 0x0200) = true := by
  decide +kernel

theorem test_X2_refused : refuses (start 0x0200 [0x89, 0x00] []) (.undocumentedOpcode 0x89 0x0200) = true := by
  decide +kernel

-- Parameters and inputs (vectors Q1 to Q13)

/-- A platform whose one range of addresses is of a kind. -/
def regionOf (first last : Word) (kind : RegionKind) : Platform := { regions := [⟨first, last, kind⟩] }

/-- The parameters with BCD_ENABLED. -/
def bcd : Platform := { bcdEnabled := true }

theorem test_Q1_adc_decimal_refused : refuses { start 0x0200 [0x69, 0x01] [] with
    a := 0x09, flags := { clear with d := true }, platform := bcd } (.decimalArithmetic 0x0200) = true := by
  decide +kernel

theorem test_Q2_sbc_decimal_refused : refuses { start 0x0200 [0xE9, 0x01] [] with
    a := 0x10, flags := { clear with d := true, c := true }, platform := bcd } (.decimalArithmetic 0x0200) = true := by
  decide +kernel

theorem test_Q3_adc_binary : gives { start 0x0200 [0x69, 0x01] [] with a := 0x09, platform := bcd }
    (fun t => t.a == 0x0A && t.pc == 0x0202) = true := by decide +kernel

theorem test_Q4_cmp_ignores_D : gives { start 0x0200 [0xC9, 0x09] [] with
    a := 0x09, flags := { clear with d := true }, platform := bcd }
    (fun t => t.flags.z && t.flags.c && t.pc == 0x0202) = true := by decide +kernel

theorem test_Q5_adc_D_without_bcd : gives { start 0x0200 [0x69, 0x09] [] with
    a := 0x09, flags := { clear with d := true } } (fun t => t.a == 0x12) = true := by decide +kernel

theorem test_Q6_pin_before_bvc : gives { start 0x0200 [0x50, 0x02] [] with
    platform := { soPin := true }, inputs := [.env { so := true }] }
    (fun t => t.flags.v && t.pc == 0x0202) = true := by decide +kernel

theorem test_Q7_pin_then_clv : gives { start 0x0200 [0xB8] [] with
    platform := { soPin := true }, inputs := [.env { so := true }] }
    (fun t => !t.flags.v && t.pc == 0x0201) = true := by decide +kernel

theorem test_Q8_pin_absent : gives { start 0x0200 [0x50, 0x02] [] with inputs := [.env { so := true }] }
    (fun t => !t.flags.v && t.pc == 0x0204) = true := by decide +kernel

theorem test_Q9_unmapped_read_refused : refuses { start 0x0200 [0xAD, 0x00, 0x40] [] with
    platform := regionOf 0x4000 0x4000 .unmapped } (.platformAccess 0x4000) = true := by decide +kernel

theorem test_Q10_rom_write : gives { start 0x0200 [0x8D, 0x00, 0x80] [(0x8000, 0xEA)] with
    a := 0x55, platform := regionOf 0x8000 0xFFFF .rom }
    (fun t => t.mem.read 0x8000 == 0xEA && writes t == [(0x8000, 0x55)]) = true := by decide +kernel

theorem test_Q11_device_read : gives { start 0x0200 [0x2C, 0x02, 0x20] [] with
    platform := regionOf 0x2002 0x2002 .device, deviceIn := [0x80] }
    (fun t => t.flags.n && !t.flags.v && t.flags.z && t.trace.head? == some (.read 0x2002 0x80)) = true := by
  decide +kernel

theorem test_Q12_extra_read_refused : refuses { start 0x0200 [0x9D, 0x00, 0x20] [] with
    x := 0x02, a := 0x01, platform := regionOf 0x2002 0x2002 .device } (.platformAccess 0x2002) = true := by
  decide +kernel

theorem test_Q13_device_modify : gives { start 0x0200 [0xEE, 0x07, 0x20] [] with
    platform := regionOf 0x2007 0x2007 .device, deviceIn := [0x41] }
    (fun t => writes t == [(0x2007, 0x41), (0x2007, 0x42)] && t.pc == 0x0203) = true := by decide +kernel

-- Cycles (spec/95_test_vectors.md section 1.11)

theorem test_cycles_branch_not_taken : gives { start 0x0200 [0x90, 0x05] [] with flags := { clear with c := true } }
    (fun t => t.cycles == 2) = true := by decide +kernel

theorem test_cycles_branch_page_crossed : gives { start 0x0300 [0xB0, 0xFD] [] with
    flags := { clear with c := true } } (fun t => t.cycles == 4 && t.pc == 0x02FF) = true := by decide +kernel

-- Interrupts: single steps of the scenarios S1 to S13

/-- The start state of a scenario: the vectors and the handlers' NOPs. -/
def scenario (pc : Word) (bytes : List Byte) (cells : List (Nat × Byte)) (e : Env) : State :=
  { start pc bytes ([(0xFFFF, 0x80), (0xFFFB, 0x90), (0x8000, 0xEA), (0x9000, 0xEA)] ++ cells) with inputs := [.env e] }

/-- I = 1 and every other flag 0. -/
def masked : Flags := { clear with i := true }

theorem test_S1_cli_polls_old_I : gives { scenario 0x0200 [0x58] [] { irq := true } with flags := masked }
    (fun t => !t.flags.i && latchAndPending t == (none, false)) = true := by decide +kernel

theorem test_S2_sei_polls_old_I : gives (scenario 0x0200 [0x78] [] { irq := true })
    (fun t => t.flags.i && latchAndPending t == (some .irq, false)) = true := by decide +kernel

theorem test_S1_irq_sequence : gives { scenario 0x0202 [] [] { irq := true } with intLatch := some .irq }
    (fun t => writes t == [(0x01FF, 0x02), (0x01FE, 0x02), (0x01FD, 0x20)] && t.sp == 0xFC && t.flags.i &&
      t.pc == 0x8000 && latchAndPending t == (none, false)) = true := by decide +kernel

theorem test_S4_rti_polls_new_I : gives { scenario 0x8000 [0x40] [(0x01FF, 0x02)] { irq := true } with
    flags := masked, sp := 0xFC }
    (fun t => !t.flags.i && t.pc == 0x0200 && latchAndPending t == (some .irq, false)) = true := by decide +kernel

theorem test_S5_plp_polls_old_I : gives { scenario 0x0200 [0x28] [(0x01FF, 0x04)] { irq := true } with sp := 0xFE }
    (fun t => t.flags.i && latchAndPending t == (some .irq, false)) = true := by decide +kernel

theorem test_S6_nmi_before_irq : gives (scenario 0x0200 [0xEA] [] { irq := true, nmiEdge := true })
    (fun t => latchAndPending t == (some .nmi, true)) = true := by decide +kernel

theorem test_S6_nmi_sequence : gives { scenario 0x0201 [] [] {} with
    flags := { masked with c := true }, intLatch := some .nmi, nmiPending := true }
    (fun t => writes t == [(0x01FF, 0x02), (0x01FE, 0x01), (0x01FD, 0x25)] && t.pc == 0x9000 &&
      latchAndPending t == (none, false)) = true := by decide +kernel

theorem test_S7_brk_hijacked : gives { scenario 0x0200 [0x00] [] { nmiEdge := true, nmiHijacksBrk := true } with
    flags := { clear with z := true } }
    (fun t => writes t == [(0x01FF, 0x02), (0x01FE, 0x02), (0x01FD, 0x32)] && t.pc == 0x9000 &&
      latchAndPending t == (none, false)) = true := by decide +kernel

theorem test_S8_brk_edge_held : gives (scenario 0x0200 [0x00] [] { nmiEdge := true })
    (fun t => t.pc == 0x8000 && latchAndPending t == (none, true)) = true := by decide +kernel

theorem test_S10_brk_does_not_poll : gives (scenario 0x0200 [0x00] [] { irq := true })
    (fun t => t.pc == 0x8000 && t.flags.i && latchAndPending t == (none, false)) = true := by decide +kernel

theorem test_S11_masked_irq : gives { scenario 0x0200 [0xEA] [] { irq := true } with flags := masked }
    (fun t => latchAndPending t == (none, false)) = true := by decide +kernel

theorem test_S12_edge_in_sequence_held : gives { scenario 0x0201 [] [] { nmiEdge := true } with intLatch := some .irq }
    (fun t => t.pc == 0x8000 && latchAndPending t == (none, true)) = true := by decide +kernel

/-- One choice of the values a reset draws. -/
def draw : ResetDraw := ⟨0x11, 0x22, 0x33, 0x44, true, true, true, true, false⟩

theorem test_S13_reset : gives { start 0x0200 [] [(0xFFFD, 0x80)] with
    inputs := [.reset draw], intLatch := some .nmi, nmiPending := true }
    (fun t => t.pc == 0x8000 && t.flags.i && t.sp == 0x44 && writes t == [] &&
      latchAndPending t == (none, false)) = true := by decide +kernel

-- Witnesses: states and operands that meet the hypotheses of the statements, one for each clause

/-- A state on the default platform, in which no flag is set and memory lists nothing. -/
def plain : State := start 0x0200 [] []

/-- The same state on a platform with one range of a kind. -/
def onPlatform (first last : Word) (kind : RegionKind) : State := { plain with platform := regionOf first last kind }

theorem allRam_plain : AllRam plain.platform := fun _ => rfl

theorem witness_DecodeReadsBackEncode : (Instr.bvs (-128)).WellFormed ∧ (Instr.bvs 127).WellFormed ∧
    Instr.brk.WellFormed ∧ (Instr.jmpInd 0xFFFF).WellFormed := by decide

theorem witness_EncodeWritesBackDecode : decode [0xD0, 0x80] = .ok (.bne (-128), []) ∧
    decode [0x6C, 0xFF, 0xFF, 0x00] = .ok (.jmpInd 0xFFFF, [0x00]) := ⟨rfl, rfl⟩

theorem witness_UndocumentedOpcodesAreRefused :
    (let s := start 0xFFFF [0xFF] []
     resetNext s = false ∧ s.intLatch = none ∧ holdsCell s.platform s.pc ∧ undocumented (cellAt s.mem s.pc) = true) ∧
    (let s := start 0x0000 [0xFE] []
     resetNext s = false ∧ s.intLatch = none ∧ holdsCell s.platform s.pc ∧ undocumented (cellAt s.mem s.pc) = false) :=
  ⟨⟨rfl, rfl, .inl rfl, rfl⟩, ⟨rfl, rfl, .inl rfl, rfl⟩⟩

theorem witness_StepRunsDecodedInstruction :
    (let s := start 0xFFFE [0xAD, 0x34, 0x12] []
     resetNext s = false ∧ s.intLatch = none ∧
     (∀ k, k < (Instr.ldaAbs 0x1234).length → holdsCell s.platform (s.pc + BitVec.ofNat 16 k)) ∧
     decode [cellAt s.mem s.pc, cellAt s.mem (s.pc + 1), cellAt s.mem (s.pc + 2)] = .ok (.ldaAbs 0x1234, [])) ∧
    (let s := start 0x0200 [0xEA] []
     resetNext s = false ∧ s.intLatch = none ∧
     (∀ k, k < Instr.nop.length → holdsCell s.platform (s.pc + BitVec.ofNat 16 k)) ∧
     decode [cellAt s.mem s.pc, cellAt s.mem (s.pc + 1), cellAt s.mem (s.pc + 2)] = .ok (.nop, [0x00, 0x00])) :=
  ⟨⟨rfl, rfl, fun _ _ => .inl rfl, rfl⟩, ⟨rfl, rfl, fun _ _ => .inl rfl, rfl⟩⟩

/-- The hypotheses of PollAfterInstruction at an instruction and a state. -/
def PollHypotheses (s : State) (i : Instr) : Prop :=
  resetNext s = false ∧ s.intLatch = none ∧
  (∀ k, k < i.length → holdsCell s.platform (s.pc + BitVec.ofNat 16 k)) ∧
  (∃ rest, decode [cellAt s.mem s.pc, cellAt s.mem (s.pc + 1), cellAt s.mem (s.pc + 2)] = .ok (i, rest)) ∧
  ∃ t, step s = .next t

theorem witness_PollAfterInstruction : PollHypotheses (scenario 0x0200 [0x58] [] { irq := true }) .cli ∧
    PollHypotheses (scenario 0x0200 [0xEA] [] { nmiEdge := true }) .nop ∧
    PollHypotheses (scenario 0x0200 [0x00] [] { irq := true }) .brk := by
  refine ⟨⟨rfl, rfl, fun _ _ => .inl rfl, ⟨_, rfl⟩, ?_⟩, ⟨rfl, rfl, fun _ _ => .inl rfl, ⟨_, rfl⟩, ?_⟩,
    ⟨rfl, rfl, fun _ _ => .inl rfl, ⟨_, rfl⟩, ?_⟩⟩
  · exact (next_of_gives (p := fun _ => true) (by decide +kernel)).imp fun _ h => h.1
  · exact (next_of_gives (p := fun _ => true) (by decide +kernel)).imp fun _ h => h.1
  · exact (next_of_gives (p := fun _ => true) (by decide +kernel)).imp fun _ h => h.1

/-- The hypotheses of InterruptSequence about the platform and the vector, at a state whose memory is empty. -/
theorem witness_InterruptSequence (kind : Interrupt) :
    let s := { plain with intLatch := some kind, sp := 0x01, pc := 0xFFFF }
    resetNext s = false ∧ s.intLatch = some kind ∧ s.mem.wf = true ∧ kindAt s.platform s.pc ≠ .device ∧
    kindAt s.platform (stackAddr s.sp) ≠ .unmapped ∧ kindAt s.platform (stackAddr (s.sp - 1)) ≠ .unmapped ∧
    kindAt s.platform (stackAddr (s.sp - 2)) ≠ .unmapped ∧
    ∀ (t : State) (v : Word), t.platform = s.platform →
      ∃ lo u1 hi u2, memRead v t = .ok (lo, u1) ∧ memRead (v + 1) u1 = .ok (hi, u2) :=
  ⟨rfl, rfl, rfl, nofun, nofun, nofun, nofun, fun t v h =>
    ⟨_, _, _, _, memRead_cell (.inl (by rw [h]; rfl)), memRead_cell (.inl (by show kindAt t.platform _ = _; rw [h]; rfl))⟩⟩

theorem witness_ResetTransition :
    let s := { plain with inputs := [.reset draw], intLatch := some .nmi, nmiPending := true }
    nextInput s = .reset draw ∧ ∃ lo u1 hi u2,
      memRead s.platform.resetVector s = .ok (lo, u1) ∧ memRead (s.platform.resetVector + 1) u1 = .ok (hi, u2) :=
  ⟨rfl, _, _, _, _, rfl, rfl⟩

theorem witness_OverflowPinSetsV :
    (let s := { plain with platform := { soPin := true }, inputs := [.env { so := true }] }
     nextInput s = .env { so := true } ∧ s.platform.soPin = true ∧ s.intLatch = none) ∧
    (let s := { plain with inputs := [.env { so := true }], intLatch := some .irq }
     nextInput s = .env { so := true } ∧ s.platform.soPin = false ∧ s.intLatch = some .irq) := by decide

theorem witness_MemReadByKind : holdsCell plain.platform 0xFFFF ∧
    holdsCell (onPlatform 0x0000 0x7FFF .rom).platform 0x0000 ∧
    (kindAt (onPlatform 0x2000 0x2007 .device).platform 0x2007 = .device ∧
      ({ onPlatform 0x2000 0x2007 .device with deviceIn := [0x80] }).deviceIn = 0x80 :: []) ∧
    (kindAt (onPlatform 0x2000 0x2007 .device).platform 0x2000 = .device ∧
      (onPlatform 0x2000 0x2007 .device).deviceIn = []) ∧
    kindAt (onPlatform 0x4000 0x4000 .unmapped).platform 0x4000 = .unmapped :=
  ⟨.inl rfl, .inr rfl, ⟨rfl, rfl⟩, ⟨rfl, rfl⟩, rfl⟩

theorem witness_MemWriteByKind : plain.mem.wf = true ∧ kindAt plain.platform 0xFFFF = .ram ∧
    (kindAt (onPlatform 0x8000 0xFFFF .rom).platform 0xFFFF = .rom ∧
      kindAt (onPlatform 0x2000 0x2007 .device).platform 0x2000 = .device) ∧
    kindAt (onPlatform 0x0000 0x0000 .unmapped).platform 0x0000 = .unmapped := by decide

theorem witness_EffectiveAddresses : ∀ addr : Word, holdsCell plain.platform addr := fun _ => .inl rfl

theorem witness_ExtraReadsOnDevicesAreRefused :
    (Instr.nop.length = 1 ∧ kindAt (onPlatform 0x0201 0x0201 .device).platform (plain.pc + 1) = .device) ∧
    kindAt (onPlatform 0x01FF 0x01FF .device).platform (stackAddr plain.sp) = .device ∧
    (Instr.rti.op = .rti ∧ kindAt (onPlatform 0x01FF 0x01FF .device).platform (plain.pc + 1) ≠ .device) ∧
    kindAt (onPlatform 0x0000 0x0000 .device).platform ((0x00 : Byte).setWidth 16) = .device ∧
    (kindAt (onPlatform 0x2000 0x2000 .device).platform (wordOf (hi8 0x20FF) (lo8 (0x20FF + (0x01 : Byte).setWidth 16)))
        = .device ∧ hi8 ((0x20FF : Word) + (0x01 : Byte).setWidth 16) ≠ hi8 0x20FF) := by decide

/-- A memory operand resolves and its byte can be read, for an access kind. -/
def Readable (kind : AccessKind) (m : MemMode) (s : State) : Prop :=
  ∃ e v u, effective kind m s = .ok e ∧ memRead e.addr e.state = .ok (v, u)

/-- X and Y at $01, so that the indexed modes cross a page from a base that ends in $FF. -/
def indexed1 : State := { plain with x := 0x01, y := 0x01 }

/-- A state for the clauses of ExtraReadsOnDevicesAreRefused: a device at $2000 to $2001, the stack and the pointer
at $FF hold $20FF and $2000, X and Y are $01. -/
def nearDevice : State :=
  { onPlatform 0x2000 0x2001 .device with
    x := 0x01, y := 0x01, sp := 0xFD, mem := store [(0x01FF, 0x20), (0x00FF, 0xFF), (0x0000, 0x20)] [] }

theorem witness_extra_read_rts : kindAt nearDevice.platform (nearDevice.pc + 1) ≠ .device ∧
    kindAt nearDevice.platform (stackAddr nearDevice.sp) ≠ .device ∧
    ∃ lo u1 hi u2, memRead (stackAddr (nearDevice.sp + 1)) nearDevice = .ok (lo, u1) ∧
      memRead (stackAddr (nearDevice.sp + 2)) u1 = .ok (hi, u2) ∧
      kindAt nearDevice.platform (wordOf hi lo) = .device :=
  ⟨nofun, nofun, _, _, _, _, rfl, rfl, rfl⟩

theorem witness_extra_read_interrupt :
    let s := { nearDevice with pc := 0x2001, intLatch := some .irq }
    resetNext s = false ∧ s.intLatch = some .irq ∧ kindAt s.platform s.pc = .device := by decide

theorem witness_extra_read_zero_page :
    let s := onPlatform 0x00FF 0x00FF .device
    ¬ decimalStop (.adcZpx 0xFF) s ∧ (Instr.adcZpx 0xFF).operand = .src (.mem (.zpx 0xFF)) ∧
    (Instr.stxZpy 0xFF).operand = .src (.mem (.zpy 0xFF)) ∧
    (Instr.cmpIndx 0xFF).operand = .src (.mem (.indx 0xFF)) ∧
    kindAt s.platform ((0xFF : Byte).setWidth 16) = .device :=
  ⟨by unfold decimalStop; decide, rfl, rfl, rfl, rfl⟩

/-- A store that crosses no page, and a load that crosses one. -/
theorem witness_extra_read_indexed : ¬ decimalStop (.staAbsx 0x2000) nearDevice ∧ writesMemory (.staAbsx 0x2000) ∧
    (Instr.staAbsx 0x2000).operand = .src (.mem (.absx 0x2000)) ∧
    kindAt nearDevice.platform (wordOf (hi8 0x2000) (lo8 (0x2000 + nearDevice.x.setWidth 16))) = .device ∧
    ¬ decimalStop (.ldaAbsy 0x20FF) nearDevice ∧ (Instr.ldaAbsy 0x20FF).operand = .src (.mem (.absy 0x20FF)) ∧
    kindAt nearDevice.platform (wordOf (hi8 0x20FF) (lo8 (0x20FF + nearDevice.y.setWidth 16))) = .device ∧
    hi8 ((0x20FF : Word) + nearDevice.y.setWidth 16) ≠ hi8 0x20FF := by
  unfold decimalStop writesMemory
  decide

theorem witness_extra_read_indirect : ¬ decimalStop (.sbcIndy 0xFF) nearDevice ∧
    (Instr.sbcIndy 0xFF).operand = .src (.mem (.indy 0xFF)) ∧
    ∃ lo u1 hi u2, memRead ((0xFF : Byte).setWidth 16) nearDevice = .ok (lo, u1) ∧
      memRead (((0xFF : Byte) + 1).setWidth 16) u1 = .ok (hi, u2) ∧
      kindAt nearDevice.platform
        (wordOf (hi8 (wordOf hi lo)) (lo8 (wordOf hi lo + nearDevice.y.setWidth 16))) = .device ∧
      hi8 (wordOf hi lo + nearDevice.y.setWidth 16) ≠ hi8 (wordOf hi lo) :=
  ⟨by unfold decimalStop; decide, rfl, _, _, _, _, rfl, rfl, by decide, by decide⟩

/-- A device at the next instruction, and one at the target without the carry. -/
theorem witness_extra_read_branch : (Instr.bne 126).operand = .rel 126 ∧ branchCondition .bne clear = some true ∧
    (let next : Word := 0x0280 + 2
     let target : Word := 0x0280 + 2 + BitVec.ofInt 16 126
     hi8 next ≠ hi8 target ∧ kindAt (onPlatform 0x0200 0x0200 .device).platform next ≠ .device ∧
     kindAt (onPlatform 0x0200 0x0200 .device).platform (wordOf (hi8 next) (lo8 target)) = .device ∧
     kindAt (onPlatform 0x0282 0x0282 .device).platform next = .device) := by decide

theorem readable_examples : Readable .read (.zp 0xFF) plain ∧ Readable .read (.zpx 0xFF) indexed1 ∧
    Readable .read (.zpy 0xFF) indexed1 ∧ Readable .read (.abs 0xFFFF) plain ∧
    Readable .read (.absx 0xFFFF) indexed1 ∧ Readable .read (.absy 0xFFFF) indexed1 ∧
    Readable .read (.indx 0xFE) indexed1 ∧ Readable .read (.indy 0xFF) indexed1 :=
  ⟨⟨_, _, _, rfl, rfl⟩, ⟨_, _, _, rfl, rfl⟩, ⟨_, _, _, rfl, rfl⟩, ⟨_, _, _, rfl, rfl⟩, ⟨_, _, _, rfl, rfl⟩,
    ⟨_, _, _, rfl, rfl⟩, ⟨_, _, _, rfl, rfl⟩, ⟨_, _, _, rfl, rfl⟩⟩

theorem witness_LoadInstructions : (Instr.ldaIndy 0xFF).operand = .src (.mem (.indy 0xFF)) ∧
    (Instr.ldaIndy 0xFF).op = .lda ∧ (Instr.ldxAbsy 0xFFFF).operand = .src (.mem (.absy 0xFFFF)) ∧
    (Instr.ldxAbsy 0xFFFF).op = .ldx ∧ (Instr.ldyZpx 0xFF).operand = .src (.mem (.zpx 0xFF)) ∧
    (Instr.ldyZpx 0xFF).op = .ldy ∧ Readable .read (.indy 0xFF) indexed1 ∧ Readable .read (.absy 0xFFFF) indexed1 ∧
    Readable .read (.zpx 0xFF) indexed1 :=
  ⟨rfl, rfl, rfl, rfl, rfl, rfl, ⟨_, _, _, rfl, rfl⟩, ⟨_, _, _, rfl, rfl⟩, ⟨_, _, _, rfl, rfl⟩⟩

theorem witness_StoreInstructions :
    ((Instr.staAbsx 0xFFFF).operand = .src (.mem (.absx 0xFFFF)) ∧ (Instr.staAbsx 0xFFFF).op = .sta ∧
      indexed1.mem.wf = true ∧ ∃ e, effective .write (.absx 0xFFFF) indexed1 = .ok e ∧ e.addr = 0x0000 ∧
        kindAt indexed1.platform e.addr = .ram) ∧
    ((Instr.stxZpy 0xFF).operand = .src (.mem (.zpy 0xFF)) ∧ (Instr.stxZpy 0xFF).op = .stx ∧
      ∃ e, effective .write (.zpy 0xFF) indexed1 = .ok e ∧ kindAt indexed1.platform e.addr ≠ .unmapped) ∧
    ((Instr.styAbs 0xFFFF).operand = .src (.mem (.abs 0xFFFF)) ∧ (Instr.styAbs 0xFFFF).op = .sty ∧
      ∃ e, effective .write (.abs 0xFFFF) (onPlatform 0x8000 0xFFFF .rom) = .ok e ∧
        kindAt (onPlatform 0x8000 0xFFFF .rom).platform e.addr = .rom) :=
  ⟨⟨rfl, rfl, rfl, _, rfl, rfl, rfl⟩, ⟨rfl, rfl, _, rfl, nofun⟩, ⟨rfl, rfl, _, rfl, rfl⟩⟩

/-- The hypothesis of the one-byte instructions: the byte after the opcode is no device's. -/
theorem witness_OneByteInstructions : kindAt plain.platform (plain.pc + 1) ≠ .device ∧
    kindAt plain.platform (0xFFFF + 1) ≠ .device := by decide

theorem witness_TransferInstructions : kindAt plain.platform (plain.pc + 1) ≠ .device :=
  witness_OneByteInstructions.1

theorem witness_IncrementDecrementIndex : kindAt plain.platform (plain.pc + 1) ≠ .device :=
  witness_OneByteInstructions.1

theorem witness_FlagInstructionsAndNop : kindAt plain.platform (plain.pc + 1) ≠ .device :=
  witness_OneByteInstructions.1

/-- Binary mode in its two ways: D = 1 without BCD_ENABLED, and BCD_ENABLED with D = 0. -/
theorem binary_examples :
    (let s := { plain with flags := allSet }
     ¬ (s.platform.bcdEnabled = true ∧ s.flags.d = true)) ∧
    (let s := { plain with platform := bcd }
     ¬ (s.platform.bcdEnabled = true ∧ s.flags.d = true)) := by decide

theorem witness_AddWithCarry : ¬ (indexed1.platform.bcdEnabled = true ∧ indexed1.flags.d = true) ∧
    (Instr.adcAbsx 0xFFFF).op = .adc ∧ (Instr.adcAbsx 0xFFFF).operand = .src (.mem (.absx 0xFFFF)) ∧
    Readable .read (.absx 0xFFFF) indexed1 :=
  ⟨by decide, rfl, rfl, ⟨_, _, _, rfl, rfl⟩⟩

theorem witness_SubtractWithCarry : ¬ (indexed1.platform.bcdEnabled = true ∧ indexed1.flags.d = true) ∧
    (Instr.sbcIndx 0xFE).op = .sbc ∧ (Instr.sbcIndx 0xFE).operand = .src (.mem (.indx 0xFE)) ∧
    Readable .read (.indx 0xFE) indexed1 :=
  ⟨by decide, rfl, rfl, ⟨_, _, _, rfl, rfl⟩⟩

theorem witness_DecimalArithmeticIsRefused :
    let s := { plain with platform := bcd, flags := { clear with d := true } }
    (Instr.adcImm 0x00).op = .adc ∧ (Instr.sbcAbs 0x0000).op = .sbc ∧ s.platform.bcdEnabled = true ∧
    s.flags.d = true ∧ exec (.adcImm 0x00) s = .refused (.decimalArithmetic s.pc) :=
  ⟨rfl, rfl, rfl, rfl, rfl⟩

theorem witness_IncrementDecrementMemory : plain.mem.wf = true ∧
    ((Instr.incAbsx 0xFFFF).operand = .src (.mem (.absx 0xFFFF)) ∧ (Instr.incAbsx 0xFFFF).op = .inc ∧
      Readable .rmw (.absx 0xFFFF) indexed1) ∧
    ((Instr.decZp 0x00).operand = .src (.mem (.zp 0x00)) ∧ (Instr.decZp 0x00).op = .dec ∧
      Readable .rmw (.zp 0x00) plain) :=
  ⟨rfl, ⟨rfl, rfl, ⟨_, _, _, rfl, rfl⟩⟩, ⟨rfl, rfl, ⟨_, _, _, rfl, rfl⟩⟩⟩

theorem witness_ShiftInstructions :
    (Instr.aslAcc.op = .asl ∧ Instr.lsrAcc.op = .lsr ∧ Instr.rolAcc.op = .rol ∧ Instr.rorAcc.op = .ror) ∧
    (Instr.rorAcc.operand = .acc ∧ kindAt plain.platform (plain.pc + 1) ≠ .device) ∧
    ((Instr.rorAbsx 0xFFFF).operand = .src (.mem (.absx 0xFFFF)) ∧ indexed1.mem.wf = true ∧
      Readable .rmw (.absx 0xFFFF) indexed1) :=
  ⟨⟨rfl, rfl, rfl, rfl⟩, ⟨rfl, nofun⟩, ⟨rfl, rfl, ⟨_, _, _, rfl, rfl⟩⟩⟩

theorem witness_BitwiseInstructions : (Instr.andImm 0xFF).op = .and ∧
    (Instr.andImm 0xFF).operand = .src (.imm 0xFF) ∧ (Instr.oraIndy 0xFF).op = .ora ∧
    (Instr.oraIndy 0xFF).operand = .src (.mem (.indy 0xFF)) ∧ Readable .read (.indy 0xFF) indexed1 ∧
    (Instr.eorZp 0xFF).op = .eor ∧ (Instr.eorZp 0xFF).operand = .src (.mem (.zp 0xFF)) ∧
    Readable .read (.zp 0xFF) plain :=
  ⟨rfl, rfl, rfl, rfl, ⟨_, _, _, rfl, rfl⟩, rfl, rfl, ⟨_, _, _, rfl, rfl⟩⟩

theorem witness_BitTest : (Instr.bitAbs 0xFFFF).op = .bit ∧ (Instr.bitAbs 0xFFFF).operand = .src (.mem (.abs 0xFFFF)) ∧
    Readable .read (.abs 0xFFFF) plain :=
  ⟨rfl, rfl, ⟨_, _, _, rfl, rfl⟩⟩

theorem witness_CompareInstructions : (Instr.cmpImm 0xFF).op = .cmp ∧
    (Instr.cmpImm 0xFF).operand = .src (.imm 0xFF) ∧ (Instr.cpxZp 0xFF).op = .cpx ∧
    (Instr.cpxZp 0xFF).operand = .src (.mem (.zp 0xFF)) ∧ Readable .read (.zp 0xFF) plain ∧
    (Instr.cpyAbs 0xFFFF).op = .cpy ∧ (Instr.cpyAbs 0xFFFF).operand = .src (.mem (.abs 0xFFFF)) ∧
    Readable .read (.abs 0xFFFF) plain :=
  ⟨rfl, rfl, rfl, rfl, ⟨_, _, _, rfl, rfl⟩, rfl, rfl, ⟨_, _, _, rfl, rfl⟩⟩

/-- The clauses of BranchInstructions: not taken; taken in the page, at its last byte; taken out of the page, by one
byte. -/
theorem witness_BranchInstructions : (Instr.bne (-128)).operand = .rel (-128) ∧
    branchCondition .bne { clear with z := true } = some false ∧ branchCondition .bne clear = some true ∧
    (let next : Word := 0x0280 + 2
     let target : Word := 0x0280 + 2 + BitVec.ofInt 16 125
     kindAt plain.platform next ≠ .device ∧ hi8 next = hi8 target) ∧
    (let next : Word := 0x0280 + 2
     let target : Word := 0x0280 + 2 + BitVec.ofInt 16 126
     kindAt plain.platform next ≠ .device ∧ hi8 next ≠ hi8 target ∧
     kindAt plain.platform (wordOf (hi8 next) (lo8 target)) ≠ .device) := by decide

theorem witness_JumpIndirectPageDefect : lo8 0x03FE ≠ 0xFF ∧ lo8 0x03FF = 0xFF ∧
    ∃ lo u1 hi u2, memRead 0x03FF plain = .ok (lo, u1) ∧ memRead (wordOf (hi8 0x03FF) (lo8 0x03FF + 1)) u1 = .ok (hi, u2) :=
  ⟨by decide, by decide, _, _, _, _, rfl, rfl⟩

theorem witness_JumpSubroutine :
    (let s := { plain with sp := 0x00, pc := 0xFFFF }
     s.mem.wf = true ∧ kindAt s.platform (stackAddr s.sp) = .ram ∧ kindAt s.platform (stackAddr (s.sp - 1)) = .ram) ∧
    (let s := { onPlatform 0x01FE 0x01FF .rom with sp := 0xFF }
     kindAt s.platform (stackAddr s.sp) = .rom ∧ kindAt s.platform (stackAddr (s.sp - 1)) = .rom) ∧
    kindAt (onPlatform 0x01FE 0x01FE .device).platform (stackAddr (0xFF - 1)) = .device := by
  decide

theorem witness_ReturnFromSubroutine :
    let s := { plain with sp := 0xFE }
    kindAt s.platform (s.pc + 1) ≠ .device ∧ kindAt s.platform (stackAddr s.sp) ≠ .device ∧
    ∃ lo u1 hi u2, memRead (stackAddr (s.sp + 1)) s = .ok (lo, u1) ∧ memRead (stackAddr (s.sp + 2)) u1 = .ok (hi, u2) ∧
      kindAt s.platform (wordOf hi lo) ≠ .device :=
  ⟨nofun, nofun, _, _, _, _, rfl, rfl, nofun⟩

/-- The hypotheses of BreakInstruction about the platform, and that both vectors can be read; one state hijacks and
one does not. -/
theorem witness_BreakInstruction :
    (let s := { plain with sp := 0x01 }
     s.mem.wf = true ∧ kindAt s.platform (s.pc + 1) ≠ .device ∧ kindAt s.platform (stackAddr s.sp) = .ram ∧
     kindAt s.platform (stackAddr (s.sp - 1)) = .ram ∧ kindAt s.platform (stackAddr (s.sp - 2)) = .ram ∧
     ∀ (t : State) (v : Word), t.platform = s.platform →
       ∃ lo u1 hi u2, memRead v t = .ok (lo, u1) ∧ memRead (v + 1) u1 = .ok (hi, u2)) ∧
    brkHijacked { plain with nmiPending := true } = true ∧ brkHijacked plain = false :=
  ⟨⟨rfl, nofun, rfl, rfl, rfl, fun t v h => ⟨_, _, _, _, memRead_cell (.inl (by rw [h]; rfl)),
    memRead_cell (.inl (by show kindAt t.platform _ = _; rw [h]; rfl))⟩⟩, rfl, rfl⟩

theorem witness_ReturnFromInterrupt :
    let s := { plain with sp := 0xFD }
    kindAt s.platform (s.pc + 1) ≠ .device ∧ kindAt s.platform (stackAddr s.sp) ≠ .device ∧
    ∃ p u1 lo u2 hi u3, memRead (stackAddr (s.sp + 1)) s = .ok (p, u1) ∧
      memRead (stackAddr (s.sp + 2)) u1 = .ok (lo, u2) ∧ memRead (stackAddr (s.sp + 3)) u2 = .ok (hi, u3) :=
  ⟨nofun, nofun, _, _, _, _, _, _, rfl, rfl, rfl⟩

theorem witness_PushInstructions :
    let s := { plain with sp := 0x00 }
    Instr.pha.op = .pha ∧ Instr.php.op = .php ∧ s.mem.wf = true ∧ kindAt s.platform (s.pc + 1) ≠ .device ∧
    kindAt s.platform (stackAddr s.sp) = .ram ∧
    kindAt (onPlatform 0x0100 0x0100 .device).platform (stackAddr s.sp) = .device := by decide

theorem witness_PullInstructions :
    let s := { plain with sp := 0xFF }
    kindAt s.platform (s.pc + 1) ≠ .device ∧ kindAt s.platform (stackAddr s.sp) ≠ .device ∧
    ∃ v u, memRead (stackAddr (s.sp + 1)) s = .ok (v, u) :=
  ⟨nofun, nofun, _, _, rfl⟩

theorem witness_EveryInstructionCompletesOnRam : AllRam plain.platform ∧
    ¬ (plain.platform.bcdEnabled = true ∧ plain.flags.d = true) ∧ Instr.nop.op ∉ controlOps :=
  ⟨allRam_plain, by decide, by decide⟩

theorem witness_OnRamOnlyUndocumentedOpcodesStop : AllRam plain.platform ∧ plain.platform.bcdEnabled = false :=
  ⟨allRam_plain, rfl⟩

theorem witness_WritersOnly : (∃ t, exec (.staZp 0xFF) plain = .next t) ∧
    Op.sta ∉ carryWriters ∧ Op.sta ∉ zeroNegativeWriters ∧ Op.sta ∉ interruptDisableWriters ∧ Op.sta ∉ decimalWriters ∧
    Op.sta ∉ overflowWriters ∧ Op.sta ∉ accumulatorWriters ∧ Op.sta ∉ xWriters ∧ Op.sta ∉ yWriters ∧
    Op.sta ∉ stackPointerWriters ∧ ¬ (Op.sta ∈ shiftOps ∧ (Instr.staZp 0xFF).operand = .acc) :=
  ⟨⟨_, rfl⟩, by decide⟩

theorem witness_FlagWritersOnly : ∃ t, exec (.staZp 0xFF) plain = .next t := ⟨_, rfl⟩

theorem witness_RegisterWritersOnly : ∃ t, exec (.aslZp 0xFF) plain = .next t := ⟨_, rfl⟩

theorem witness_MemoryWritersOnly : (∃ t, exec .aslAcc plain = .next t) ∧ ¬ writesMemory .aslAcc := by
  refine ⟨⟨_, rfl⟩, ?_⟩
  unfold writesMemory
  decide

theorem witness_OnlyRamChanges :
    let s := { start 0x0200 [0x8D, 0x00, 0x80] [] with a := 0x55, platform := regionOf 0x8000 0xFFFF .rom }
    (∃ t, step s = .next t) ∧ kindAt s.platform 0x8000 ≠ .ram :=
  ⟨(next_of_gives (p := fun _ => true) (by decide +kernel)).imp fun _ h => h.1, by decide⟩

theorem witness_MemoryStaysCanonical :
    let s := start 0x0200 [0x85, 0x10] [(0xFFFF, 0x01), (0x0010, 0x02)]
    s.mem.wf = true ∧ ∃ t, step s = .next t :=
  ⟨by decide, (next_of_gives (p := fun _ => true) (by decide +kernel)).imp fun _ h => h.1⟩

theorem witness_LatchedNmiIsPending :
    let s := scenario 0x0200 [0xEA] [] { nmiEdge := true }
    (s.intLatch = some .nmi → s.nmiPending = true) ∧ ∃ t, step s = .next t ∧ (t.intLatch == some .nmi) = true :=
  ⟨by decide, next_of_gives (by decide +kernel)⟩

theorem witness_StepKeepsParameters : ∃ t, step (start 0x0200 [0xEA] []) = .next t :=
  (next_of_gives (p := fun _ => true) (by decide +kernel)).imp fun _ h => h.1

theorem witness_TimeAndHistoryAreUnobservable : (∃ t, step (start 0x0200 [0xEA] []) = .next t) ∧
    refuses (start 0x0200 [0x02] []) (.undocumentedOpcode 0x02 0x0200) = true :=
  ⟨witness_StepKeepsParameters, test_X1_refused⟩

theorem witness_SignedOverflowMeaning :
    (operandByte (.adcImm 0x7F) plain 0x7F ∧ ∃ t, exec (.adcImm 0x7F) plain = .next t) ∧
    ∃ m, operandByte (.sbcIndy 0xFF) indexed1 m ∧ ∃ t, exec (.sbcIndy 0xFF) indexed1 = .next t :=
  ⟨⟨.inl rfl, _, rfl⟩, _, .inr ⟨_, _, _, rfl, rfl, rfl⟩, _, rfl⟩

theorem witness_CompareIsSubtractWithCarrySet :
    let s' := { plain with a := plain.y, flags := { plain.flags with c := true } }
    (Instr.cpyAbs 0xFFFF).op = .cpy ∧ (Instr.sbcZp 0xFF).op = .sbc ∧
    ∃ m, operandByte (.cpyAbs 0xFFFF) plain m ∧ operandByte (.sbcZp 0xFF) s' m ∧
      (∃ t, exec (.cpyAbs 0xFFFF) plain = .next t) ∧ ∃ u, exec (.sbcZp 0xFF) s' = .next u :=
  ⟨rfl, rfl, _, .inr ⟨_, _, _, rfl, rfl, rfl⟩, .inr ⟨_, _, _, rfl, rfl, rfl⟩, ⟨_, rfl⟩, _, rfl⟩

theorem witness_FreeInputsActAsListedOnes : State.reset.inputs = [] := rfl

theorem witness_NineRotationsReturn : AllRam plain.platform := allRam_plain

/-- The hypotheses of CallThenReturn, BreakThenReturn and PullThenPushSetsBits5And4. -/
theorem witness_StackRoundTrips : AllRam plain.platform ∧ plain.mem.wf = true := ⟨allRam_plain, rfl⟩

theorem witness_CallThenReturn : AllRam plain.platform ∧ plain.mem.wf = true := witness_StackRoundTrips

theorem witness_BreakThenReturn : AllRam plain.platform ∧ plain.mem.wf = true := witness_StackRoundTrips

theorem witness_PullThenPushSetsBits5And4 : AllRam plain.platform ∧ plain.mem.wf = true := witness_StackRoundTrips

/-- An instruction whose operand byte is a device's. -/
theorem witness_StepRunsFetchedInstruction :
    let s := { start 0x1FFF [0xA9] [] with platform := regionOf 0x2000 0x2000 .device, deviceIn := [0x80] }
    resetNext s = false ∧ s.intLatch = none ∧ ∃ u, readBytes s.pc (Instr.ldaImm 0x80).length (overflowPin s)
      = .ok ([0xA9, 0x80], u) ∧ decode [0xA9, 0x80] = .ok (.ldaImm 0x80, []) :=
  ⟨rfl, rfl, _, rfl, rfl⟩

-- Assembly text: the examples of 30_encoding.md R106, R107 and R109

/-- The text of an instruction at `$0200` and the instruction of a mnemonic and an operand. -/
def spells (text : String) (i : Instr) : Bool :=
  decide (instrText 0x0200 i = text) && decide (assemble i.op i.operand = some i)

theorem test_assembly_examples :
    ([("CLC", .clc), ("ASL A", .aslAcc), ("LDA #$10", .ldaImm 0x10), ("LDA $10", .ldaZp 0x10),
      ("LDA $10,X", .ldaZpx 0x10), ("LDX $10,Y", .ldxZpy 0x10), ("LDA $1234", .ldaAbs 0x1234),
      ("LDA $1234,X", .ldaAbsx 0x1234), ("LDA $1234,Y", .ldaAbsy 0x1234), ("LDA ($10,X)", .ldaIndx 0x10),
      ("LDA ($10),Y", .ldaIndy 0x10), ("BNE $0210", .bne 0x0E), ("JMP ($03FF)", .jmpInd 0x03FF)]
        : List (String × Instr)).all (fun p => spells p.1 p.2) = true := by decide +kernel

theorem test_assembly_shortens : assemble .lda (.src (.mem (.abs 0x0010))) = some (.ldaZp 0x10) := by decide +kernel

theorem test_assembly_no_short_form : assemble .jmp (.src (.mem (.abs 0x0010))) = some (.jmpAbs 0x0010) := by
  decide +kernel

theorem test_assembly_shift_alone : assemble .asl .imp = some .aslAcc := by decide +kernel

theorem test_assembly_branch_range : [branchOffset 0x0200 0x0210, branchOffset 0x0200 0x0281,
    branchOffset 0x0200 0x0282, branchOffset 0x0200 0x0182, branchOffset 0x0200 0x0181]
    = [some 14, some 127, none, some (-128), none] := by decide +kernel

theorem test_assembly_alternative_names :
    alternativeNames.map (fun p => (p.1, (assemble p.2 (.rel 0)).map encode))
      = [("BLT", some [0x90, 0x00]), ("BGE", some [0xB0, 0x00])] := by decide +kernel

end Sys2Proof.Tests
end

section
/-! SUPPORT. The proof of O39 (00_scope.md R13): where every address is `ram` an operation can only be refused for a
reason that is no access, so each of the three kinds of step completes, but for the fetch of an undocumented opcode. -/

namespace Sys2Proof.Machine

/-- The rows of the opcode map leave out exactly the opcode values that 30_encoding.md R101 lists. -/
theorem layoutOf_eq_none_iff (opcode : Byte) : layoutOf opcode = none ↔ undocumented opcode = true := by
  have table : ∀ o : Byte, (layoutOf o).isNone = undocumented o := by decide +kernel
  rw [← Option.isNone_iff_eq_none, table opcode]

/-- An operation that is refused for its accesses alone answers where every address is `ram`. -/
theorem AllRam.exists_ok {α : Type} {s : State} {x : Access α} (hs : AllRam s.platform)
    (hx : ∀ r, x = .error r → AtPlatform s r) : ∃ a, x = .ok a := by
  cases x with
  | ok a => exact ⟨a, rfl⟩
  | error r => exact absurd (hx r rfl) (AtPlatform.elim hs)

/-- An interrupt sequence is refused for one of its accesses only. -/
theorem AtPlatform.interruptEntry {kind : Interrupt} {s : State} {r : Refusal}
    (h : Machine.interruptEntry kind s = .error r) : AtPlatform s r := by
  simp only [Machine.interruptEntry, access_bind_eq_error, access_pure_ne_error, and_false, exists_false,
    or_false] at h
  rcases h with h | ⟨_, _, h⟩
  · exact .extraRead h
  · exact .takeInterrupt h

/-- A reset is refused for one of its accesses only. -/
theorem AtPlatform.takeReset {d : ResetDraw} {s : State} {r : Refusal} (h : Machine.takeReset d s = .error r) :
    AtPlatform s r := by
  simp only [Machine.takeReset, access_bind_eq_error, access_pure_ne_error, and_false, exists_false, or_false] at h
  exact .readPair h

/-- A reset completes where every address is `ram`. -/
theorem stepReset_next_of_allRam {s : State} (d : ResetDraw) (hs : AllRam s.platform) :
    ∃ t, stepReset d s = .next t := by
  obtain ⟨u, hu⟩ := hs.exists_ok fun _ => AtPlatform.takeReset (d := d)
  exact ⟨popInput u, toOutcome_eq_next.mpr (access_map_eq_ok.mpr ⟨u, hu, rfl⟩)⟩

/-- An interrupt sequence completes where every address is `ram`. -/
theorem stepInterrupt_next_of_allRam {s : State} (kind : Interrupt) (hs : AllRam s.platform) :
    ∃ t, stepInterrupt kind s = .next t := by
  obtain ⟨u, hu⟩ := hs.exists_ok fun _ => AtPlatform.interruptEntry (kind := kind)
  exact ⟨popInput u, toOutcome_eq_next.mpr (access_map_eq_ok.mpr ⟨u, hu, rfl⟩)⟩

/-- Every instruction has a next state where every address is `ram` and decimal mode is not active. -/
theorem exec_next_of_allRam {s : State} (i : Instr) (hs : AllRam s.platform) (hd : decimalActive s = false) :
    ∃ t, exec i s = .next t := by
  rcases exec_eq_next_or_refused i s with hnext | ⟨r, hr⟩
  · exact hnext
  · rcases exec_refused hr with hp | ⟨hactive, -⟩
    · exact absurd hp (AtPlatform.elim hs)
    · exact absurd hactive (by simp [hd])

theorem decimalActive_of_bcdEnabled_false {s : State} (h : s.platform.bcdEnabled = false) :
    decimalActive s = false := by
  simp [decimalActive, h]

/-- Where every address is `ram` a fetch is refused for one reason only: the opcode in the cell at PC is
undocumented. -/
theorem fetch_refused_of_allRam {s : State} {r : Refusal} (hs : AllRam s.platform) (h : fetch s = .error r) :
    undocumented (cellAt s.mem s.pc) = true ∧ r = .undocumentedOpcode (cellAt s.mem s.pc) s.pc := by
  rcases fetch_refused h with hp | ⟨opcode, u, hread, hlayout, rfl⟩
  · exact absurd hp (AtPlatform.elim hs)
  · rw [memRead_cell (.inl (hs s.pc)), Except.ok.injEq, Prod.mk.injEq] at hread
    obtain ⟨rfl, -⟩ := hread
    exact ⟨(layoutOf_eq_none_iff _).mp hlayout, rfl⟩

/-- An instruction step on `ram` in binary mode completes, or its opcode is undocumented and refused as such. -/
theorem stepInstr_of_allRam {s : State} (hs : AllRam s.platform) (hb : s.platform.bcdEnabled = false) :
    (∃ t, stepInstr s = .next t) ∨
    (undocumented (cellAt s.mem s.pc) = true ∧
      stepInstr s = .refused (.undocumentedOpcode (cellAt s.mem s.pc) s.pc)) := by
  unfold stepInstr
  cases hf : fetch s with
  | error r =>
    obtain ⟨hu, rfl⟩ := fetch_refused_of_allRam hs hf
    exact .inr ⟨hu, rfl⟩
  | ok fetched =>
    obtain ⟨i, u⟩ := fetched
    have hp : u.platform = s.platform := (Keeps.fetch hf).platform
    obtain ⟨t, ht⟩ := exec_next_of_allRam i (hp ▸ hs) (decimalActive_of_bcdEnabled_false (hp ▸ hb))
    exact .inl ⟨finishInstr i.op u.flags.i t, by simp only [ht]⟩

/-- Settles O39, by the kind of the step: a reset and an interrupt sequence make accesses only and so complete; an
instruction step begins, after the overflow pin, with the platform, memory and PC of `s`. -/
theorem onRamOnlyUndocumentedOpcodesStop : Obligations.OnRamOnlyUndocumentedOpcodesStop := by
  intro s hs hb
  cases hr : resetNext s with
  | true =>
    obtain ⟨d, hd⟩ := resetNext_eq_true.mp hr
    rw [step_reset hd]
    exact .inl (stepReset_next_of_allRam d hs)
  | false =>
    have hpin : AllRam (overflowPin s).platform := by rwa [overflowPin_platform]
    cases hl : s.intLatch with
    | some kind =>
      rw [step_interrupt hr hl]
      exact .inl (stepInterrupt_next_of_allRam kind hpin)
    | none =>
      rw [step_instr hr hl]
      simpa using stepInstr_of_allRam hpin (by rwa [overflowPin_platform])

end Sys2Proof.Machine
end

section
/-! SUPPORT. What every instruction does to the registers, the flags, PC and the cycle counter, said once by mnemonic
and operand form (`registersAfter`, `Completed.exec`), on any platform. -/

namespace Sys2Proof.Machine

/-- The registers and flags of the programmer (10_state.md R20 to R23, R26), without PC. -/
structure Registers where
  a : Byte
  x : Byte
  y : Byte
  sp : Byte
  flags : Flags

/-- The registers and flags of a state. -/
def State.registers (s : State) : Registers := ⟨s.a, s.x, s.y, s.sp, s.flags⟩

/-- A and the flags after a shift or a rotate of `v`: the result goes to A in Accumulator mode only (43_shift.md
R155). -/
def Registers.shift (f : ByteOp) (a : Operand) (v : Byte) (r : Registers) : Registers :=
  { r with a := if a = .acc then (f v r.flags).1 else r.a, flags := (f v r.flags).2 }

/-- The registers and flags after a mnemonic with an operand form, from those before and the byte `v` the instruction
gets: its operand byte `M`, A in Accumulator mode, or the first byte it pulls; the others do not look at `v`. That
this is what the model's instructions do is `Completed.exec`. -/
def registersAfter (o : Op) (a : Operand) (v : Byte) (r : Registers) : Registers :=
  match o with
  | .lda => { r with a := v, flags := r.flags.setNZ v }
  | .ldx => { r with x := v, flags := r.flags.setNZ v }
  | .ldy => { r with y := v, flags := r.flags.setNZ v }
  | .tax => { r with x := r.a, flags := r.flags.setNZ r.a }
  | .txa => { r with a := r.x, flags := r.flags.setNZ r.x }
  | .tay => { r with y := r.a, flags := r.flags.setNZ r.a }
  | .tya => { r with a := r.y, flags := r.flags.setNZ r.y }
  | .adc => { r with a := adcResult r.a v r.flags.c, flags := adcFlags r.flags r.a v }
  | .sbc => { r with
      a := adcResult r.a (sbcOperand v) r.flags.c
      flags := adcFlags r.flags r.a (sbcOperand v) }
  | .inc => { r with flags := (incByte v r.flags).2 }
  | .dec => { r with flags := (decByte v r.flags).2 }
  | .inx => { r with x := (incByte r.x r.flags).1, flags := (incByte r.x r.flags).2 }
  | .dex => { r with x := (decByte r.x r.flags).1, flags := (decByte r.x r.flags).2 }
  | .iny => { r with y := (incByte r.y r.flags).1, flags := (incByte r.y r.flags).2 }
  | .dey => { r with y := (decByte r.y r.flags).1, flags := (decByte r.y r.flags).2 }
  | .asl => r.shift aslByte a v
  | .lsr => r.shift lsrByte a v
  | .rol => r.shift rolByte a v
  | .ror => r.shift rorByte a v
  | .and => { r with a := r.a &&& v, flags := r.flags.setNZ (r.a &&& v) }
  | .ora => { r with a := r.a ||| v, flags := r.flags.setNZ (r.a ||| v) }
  | .eor => { r with a := r.a ^^^ v, flags := r.flags.setNZ (r.a ^^^ v) }
  | .bit => { r with flags := bitTestFlags r.flags r.a v }
  | .cmp => { r with flags := compareFlags r.flags r.a v }
  | .cpx => { r with flags := compareFlags r.flags r.x v }
  | .cpy => { r with flags := compareFlags r.flags r.y v }
  | .jsr => { r with sp := r.sp - 2 }
  | .rts => { r with sp := r.sp + 2 }
  | .brk => { r with sp := r.sp - 3, flags := r.flags.disableIrq }
  | .rti => { r with sp := r.sp + 3, flags := unpackP v }
  | .pha | .php => { r with sp := r.sp - 1 }
  | .pla => { r with a := v, sp := r.sp + 1, flags := r.flags.setNZ v }
  | .plp => { r with sp := r.sp + 1, flags := unpackP v }
  | .txs => { r with sp := r.x }
  | .tsx => { r with x := r.sp, flags := r.flags.setNZ r.sp }
  | .clc => { r with flags := { r.flags with c := false } }
  | .sec => { r with flags := { r.flags with c := true } }
  | .cli => { r with flags := { r.flags with i := false } }
  | .sei => { r with flags := { r.flags with i := true } }
  | .cld => { r with flags := { r.flags with d := false } }
  | .sed => { r with flags := { r.flags with d := true } }
  | .clv => { r with flags := { r.flags with v := false } }
  | .sta | .stx | .sty | .bcc | .bcs | .beq | .bne | .bpl | .bmi | .bvc | .bvs | .jmp | .nop => r

/-- What an instruction that completes has done, on any platform: the registers and flags are those of
`registersAfter`, at least two cycles are counted, and PC is past the instruction unless it is a control transfer. -/
structure Completed (o : Op) (a : Operand) (s t : State) : Prop where
  registers : ∃ v, t.registers = registersAfter o a v s.registers
  time : s.cycles + 2 ≤ t.cycles
  pc : o ∉ controlOps → t.pc = s.pc + BitVec.ofNat 16 (Laws.operandLength a)

-- The operand forms a meaning admits, and their lengths

theorem onSource_eq_some {a : Operand} {f : Source → Access State} {x : Access State} :
    onSource a f = some x ↔ ∃ src, a = .src src ∧ f src = x := by
  cases a <;> simp [onSource]

theorem onMem_eq_some {a : Operand} {f : MemMode → Access State} {x : Access State} :
    onMem a f = some x ↔ ∃ m, a = .src (.mem m) ∧ f m = x := by
  rcases a with _ | _ | ⟨_ | _⟩ | _ | _ <;> simp [onMem]

theorem onAccOrMem_eq_some {a : Operand} {f : ByteOp} {s : State} {x : Access State} :
    onAccOrMem a f s = some x ↔ (a = .acc ∧ modifyA f s = x) ∨ ∃ m, a = .src (.mem m) ∧ modifyMem m f s = x := by
  rcases a with _ | _ | ⟨_ | _⟩ | _ | _ <;> simp [onAccOrMem]

theorem onImplied_eq_some {a : Operand} {x y : Access State} : onImplied a x = some y ↔ a = .imp ∧ x = y := by
  cases a <;> simp [onImplied]

theorem onRel_eq_some {a : Operand} {cond : Bool} {s : State} {x : Access State} :
    onRel a cond s = some x ↔ ∃ offset, a = .rel offset ∧ branch cond offset s = x := by
  cases a <;> simp [onRel]

theorem onTarget_eq_some {a : Operand} {f : Word → Access State} {g : Word → Option (Access State)}
    {x : Access State} : onTarget a f g = some x ↔
      (∃ w, a = .src (.mem (.abs w)) ∧ f w = x) ∨ ∃ p, a = .ind p ∧ g p = some x := by
  rcases a with _ | _ | ⟨_ | ⟨_ | _ | _ | _ | _ | _ | _ | _⟩⟩ | _ | _ <;> simp [onTarget]

theorem operandLength_src (src : Source) : Laws.operandLength (.src src) = sourceLength src := by
  rcases src with _ | ⟨_ | _ | _ | _ | _ | _ | _ | _⟩ <;> rfl

/-- The length of every instruction is that of its operand form (30_encoding.md R80, R81). -/
theorem length_eq_operandLength (i : Instr) : i.length = Laws.operandLength i.operand := by
  cases i <;> rfl

-- What each shared shape has done when it completes

/-- An instruction of the read kind, from what it does with its operand byte. -/
theorem Completed.withSource {o : Op} {src : Source} {f : Byte → State → State} {s t : State}
    (h : Machine.withSource src f s = .ok t)
    (hr : ∀ v u, (f v u).registers = registersAfter o (.src src) v u.registers)
    (hpc : ∀ v u, (f v u).pc = u.pc) (hc : ∀ v u, (f v u).cycles = u.cycles) : Completed o (.src src) s t := by
  obtain ⟨v, u, n, rfl, hn, -⟩ := withSource_inv h
  have hcycles : (f v ((s.withBus u).tick n)).cycles = s.cycles + n := hc v _
  refine ⟨⟨v, hr v _⟩, ?_, fun _ => ?_⟩
  · simp only [advance, State.setPc_cycles, hcycles]
    omega
  · simp only [advance, State.setPc_pc, hpc, operandLength_src]
    rfl

theorem Completed.addCarry {src : Source} {s t : State} (h : Machine.addCarry src s = .ok t) :
    Completed .adc (.src src) s t := by
  unfold Machine.addCarry at h
  split at h
  · exact nomatch h
  · exact .withSource h (fun _ _ => rfl) (fun _ _ => rfl) fun _ _ => rfl

theorem Completed.subtractCarry {src : Source} {s t : State} (h : Machine.subtractCarry src s = .ok t) :
    Completed .sbc (.src src) s t := by
  unfold Machine.subtractCarry at h
  split at h
  · exact nomatch h
  · exact .withSource h (fun _ _ => rfl) (fun _ _ => rfl) fun _ _ => rfl

theorem two_le_writeCycles (m : MemMode) : 2 ≤ writeCycles m := by cases m <;> simp [writeCycles]

/-- An instruction of the write kind changes no register. -/
theorem Completed.storeByte {o : Op} {m : MemMode} {v : Byte} {s t : State} (h : Machine.storeByte m v s = .ok t)
    (hr : ∀ r, registersAfter o (.src (.mem m)) v r = r) : Completed o (.src (.mem m)) s t := by
  obtain ⟨e, -, -, rfl⟩ := storeByte_eq_ok.mp h
  exact ⟨⟨v, (hr s.registers).symm⟩, Nat.add_le_add_left (two_le_writeCycles m) _,
    fun _ => by rw [operandLength_src]; rfl⟩

/-- A read-modify-write instruction on memory takes the flags of its byte operation. -/
theorem Completed.modifyMem {o : Op} {m : MemMode} {f : ByteOp} {s t : State}
    (h : Machine.modifyMem m f s = .ok t)
    (hr : ∀ v r, registersAfter o (.src (.mem m)) v r = { r with flags := (f v r.flags).2 }) :
    Completed o (.src (.mem m)) s t := by
  obtain ⟨e, v, u, -, -, rfl⟩ := modifyMem_eq_ok.mp h
  refine ⟨⟨v, (hr v s.registers).symm⟩, Nat.add_le_add_left ?_ _, fun _ => by rw [operandLength_src]; rfl⟩
  simp [rmwCycles]

/-- A shift or a rotate, on A or on memory. -/
theorem Completed.accOrMem {o : Op} {a : Operand} {f : ByteOp} {s t : State}
    (hm : onAccOrMem a f s = some (.ok t)) (hr : ∀ v r, registersAfter o a v r = r.shift f a v) :
    Completed o a s t := by
  rcases onAccOrMem_eq_some.mp hm with ⟨rfl, h⟩ | ⟨m, rfl, h⟩
  · obtain ⟨-, rfl⟩ := modifyA_eq_ok.mp h
    exact ⟨⟨s.a, (hr s.a s.registers).symm⟩, le_refl _, fun _ => rfl⟩
  · exact .modifyMem h hr

/-- A one-byte instruction without a data access, from what it does to the registers. -/
theorem Completed.implied {o : Op} {f : State → State} {s t : State} (h : Machine.implied f s = .ok t)
    (hr : (f s).registers = registersAfter o .imp s.a s.registers) (hpc : (f s).pc = s.pc)
    (hc : (f s).cycles = s.cycles) : Completed o .imp s t := by
  obtain ⟨-, rfl⟩ := implied_eq_ok.mp h
  refine ⟨⟨s.a, hr⟩, ?_, fun _ => ?_⟩
  · simp [advance, hc]
  · simp [advance, hpc, Laws.operandLength]

/-- A branch changes no register. -/
theorem Completed.branch {o : Op} {offset : Int} {cond : Bool} {s t : State}
    (h : Machine.branch cond offset s = .ok t) (ho : o ∈ controlOps)
    (hr : ∀ v r, registersAfter o (.rel offset) v r = r) : Completed o (.rel offset) s t := by
  obtain ⟨_, n, rfl, hn⟩ := branch_inv h
  exact ⟨⟨s.a, (hr s.a s.registers).symm⟩, Nat.add_le_add_left hn _, fun hno => absurd ho hno⟩

/-- Everything PHA and PHP can do. -/
theorem pushRegister_eq_ok {value : State → Byte} {s t : State} : pushRegister value s = .ok t ↔
    kindAt s.platform (s.pc + 1) ≠ .device ∧ ∃ u, push (value s) s = .ok u ∧ t = advance 1 (u.tick 3) := by
  simp only [pushRegister, access_bind_eq_ok, extraRead_eq_ok, access_pure_eq_ok, exists_and_left, exists_const,
    @eq_comm _ t]

/-- Everything PLA and PLP can do. -/
theorem pullRegister_eq_ok {f : Byte → State → State} {s t : State} : pullRegister f s = .ok t ↔
    kindAt s.platform (s.pc + 1) ≠ .device ∧ kindAt s.platform (stackAddr s.sp) ≠ .device ∧
    ∃ v u, pull s = .ok (v, u) ∧ t = advance 1 ((f v u).tick 4) := by
  simp only [pullRegister, access_bind_eq_ok, extraRead_eq_ok, access_pure_eq_ok, exists_and_left, exists_const,
    Prod.exists, @eq_comm _ t]

/-- A push changes SP alone. -/
theorem Completed.pushRegister {o : Op} {value : State → Byte} {s t : State}
    (h : Machine.pushRegister value s = .ok t)
    (hr : ∀ v r, registersAfter o .imp v r = { r with sp := r.sp - 1 }) : Completed o .imp s t := by
  obtain ⟨-, u, hu, rfl⟩ := pushRegister_eq_ok.mp h
  obtain ⟨-, rfl⟩ := push_eq_ok.mp hu
  exact ⟨⟨s.a, (hr s.a s.registers).symm⟩, Nat.add_le_add_left (by omega) _, fun _ => rfl⟩

/-- A pull, from what is done with the byte pulled. -/
theorem Completed.pullRegister {o : Op} {f : Byte → State → State} {s t : State}
    (h : Machine.pullRegister f s = .ok t)
    (hr : ∀ v (u : State), (f v (u.setSp (u.sp + 1))).registers = registersAfter o .imp v u.registers)
    (hpc : ∀ v u, (f v u).pc = u.pc) (hc : ∀ v u, (f v u).cycles = u.cycles) : Completed o .imp s t := by
  obtain ⟨-, -, v, u, hu, rfl⟩ := pullRegister_eq_ok.mp h
  obtain ⟨hframe, -⟩ := pull_frame hu
  have hup : u.pc = s.pc := by rw [hframe]; rfl
  have huc : u.cycles = s.cycles := by rw [hframe]; rfl
  refine ⟨⟨v, ?_⟩, ?_, fun _ => ?_⟩
  · rw [hframe]
    exact hr v (s.withBus u)
  · simp only [advance, State.setPc_cycles, State.tick_cycles, hc, huc]
    omega
  · simp [advance, hpc, hup, Laws.operandLength]

theorem Completed.jumpIndirect {p : Word} {s t : State} (h : Machine.jumpIndirect p s = .ok t) :
    Completed .jmp (.ind p) s t := by
  simp only [Machine.jumpIndirect, access_bind_eq_ok, access_pure_eq_ok, Prod.exists] at h
  obtain ⟨_, u, hu, rfl⟩ := h
  obtain ⟨hframe, -⟩ := readPair_frame hu
  rw [← hframe]
  exact ⟨⟨s.a, rfl⟩, Nat.add_le_add_left (by omega) _, fun ho => absurd (by decide) ho⟩

theorem Completed.jumpSubroutine {w : Word} {s t : State} (h : Machine.jumpSubroutine w s = .ok t) :
    Completed .jsr (.src (.mem (.abs w))) s t := by
  simp only [Machine.jumpSubroutine, access_bind_eq_ok, access_pure_eq_ok, pushWord_eq_ok] at h
  obtain ⟨_, -, u, ⟨-, -, rfl⟩, rfl⟩ := h
  exact ⟨⟨s.a, rfl⟩, Nat.add_le_add_left (by omega) _, fun ho => absurd (by decide) ho⟩

theorem Completed.returnSubroutine {s t : State} (h : Machine.returnSubroutine s = .ok t) :
    Completed .rts .imp s t := by
  simp only [Machine.returnSubroutine, access_bind_eq_ok, access_pure_eq_ok, Prod.exists] at h
  obtain ⟨_, -, _, -, w, u, hu, _, -, rfl⟩ := h
  obtain ⟨hframe, -⟩ := pullWord_frame hu
  rw [hframe]
  exact ⟨⟨s.a, rfl⟩, Nat.add_le_add_left (by omega) _, fun ho => absurd (by decide) ho⟩

/-- Everything BRK can do: the shared entry, through the vector of whichever interrupt takes it, and nothing is
latched after it. -/
theorem breakInterrupt_eq_ok {s t : State} : breakInterrupt s = .ok t ↔ kindAt s.platform (s.pc + 1) ≠ .device ∧
    ∃ u, takeInterrupt (s.pc + 2) true (if brkHijacked s then s.platform.nmiVector else Config.irqVector) s = .ok u ∧
      t = ((u.setNmiPending (!brkHijacked s && (currentEnv s).nmiEdge)).setIntLatch none).tick 7 := by
  simp only [breakInterrupt, access_bind_eq_ok, extraRead_eq_ok, access_pure_eq_ok, exists_and_left, exists_const,
    @eq_comm _ t]

/-- The shared interrupt entry moves SP past three bytes and sets I. -/
theorem takeInterrupt_registers {ret vector : Word} {b : Bool} {s t : State}
    (h : takeInterrupt ret b vector s = .ok t) :
    t.registers = { s.registers with sp := s.sp - 3, flags := s.flags.disableIrq } ∧ t.cycles = s.cycles := by
  obtain ⟨-, -, -, target, u, rfl, hu⟩ := takeInterrupt_eq_ok.mp h
  rw [← (read16_frame hu).1]
  exact ⟨rfl, rfl⟩

theorem Completed.breakInterrupt {s t : State} (h : Machine.breakInterrupt s = .ok t) : Completed .brk .imp s t := by
  obtain ⟨-, u, hu, rfl⟩ := breakInterrupt_eq_ok.mp h
  obtain ⟨hr, hc⟩ := takeInterrupt_registers hu
  refine ⟨⟨s.a, hr⟩, ?_, fun ho => absurd (by decide) ho⟩
  simp only [State.tick_cycles, State.setIntLatch_cycles, State.setNmiPending_cycles, hc]
  omega

theorem Completed.returnInterrupt {s t : State} (h : Machine.returnInterrupt s = .ok t) :
    Completed .rti .imp s t := by
  simp only [Machine.returnInterrupt, access_bind_eq_ok, access_pure_eq_ok, returnFromInterrupt_eq_ok] at h
  obtain ⟨_, -, _, -, _, ⟨p, u, target, u', hu, hu', rfl⟩, rfl⟩ := h
  obtain ⟨hframe, -⟩ := pull_frame hu
  obtain ⟨hframe', -⟩ := pullWord_frame hu'
  have e : s.sp + 1 + 2 = s.sp + 3 := by bv_omega
  rw [hframe', hframe]
  refine ⟨⟨p, ?_⟩, Nat.add_le_add_left (by omega) _, fun ho => absurd (by decide) ho⟩
  change _ = { s.registers with sp := s.sp + 3, flags := unpackP p }
  rw [← e]
  rfl

/-- What a mnemonic with an operand form has done when it completes, by the family of the mnemonic. -/
theorem Completed.of_meaning {o : Op} {a : Operand} {s t : State} (hm : meaningOf o a s = some (.ok t)) :
    Completed o a s t := by
  cases o with
  | lda | ldx | ldy | and | ora | eor | cmp | cpx | cpy =>
    obtain ⟨src, rfl, h⟩ := onSource_eq_some.mp hm
    exact .withSource h (fun _ _ => rfl) (fun _ _ => rfl) fun _ _ => rfl
  | bit =>
    obtain ⟨m, rfl, h⟩ := onMem_eq_some.mp hm
    exact .withSource h (fun _ _ => rfl) (fun _ _ => rfl) fun _ _ => rfl
  | adc =>
    obtain ⟨src, rfl, h⟩ := onSource_eq_some.mp hm
    exact .addCarry h
  | sbc =>
    obtain ⟨src, rfl, h⟩ := onSource_eq_some.mp hm
    exact .subtractCarry h
  | sta | stx | sty =>
    obtain ⟨m, rfl, h⟩ := onMem_eq_some.mp hm
    exact .storeByte h fun _ => rfl
  | inc | dec =>
    obtain ⟨m, rfl, h⟩ := onMem_eq_some.mp hm
    exact .modifyMem h fun _ _ => rfl
  | asl | lsr | rol | ror => exact .accOrMem hm fun _ _ => rfl
  | tax | txa | tay | tya | inx | dex | iny | dey | txs | tsx | clc | sec | cli | sei | cld | sed | clv | nop =>
    obtain ⟨rfl, h⟩ := onImplied_eq_some.mp hm
    exact .implied h rfl rfl rfl
  | bcc | bcs | beq | bne | bpl | bmi | bvc | bvs =>
    obtain ⟨offset, rfl, h⟩ := onRel_eq_some.mp hm
    exact .branch h (by decide) fun _ _ => rfl
  | jmp =>
    rcases onTarget_eq_some.mp hm with ⟨w, rfl, h⟩ | ⟨p, rfl, h⟩
    · obtain rfl := Except.ok.inj h
      exact ⟨⟨s.a, rfl⟩, Nat.add_le_add_left (by omega) _, fun ho => absurd (by decide) ho⟩
    · exact .jumpIndirect (Option.some.inj h)
  | jsr =>
    rcases onTarget_eq_some.mp hm with ⟨w, rfl, h⟩ | ⟨p, rfl, h⟩
    · exact .jumpSubroutine h
    · exact nomatch h
  | rts =>
    obtain ⟨rfl, h⟩ := onImplied_eq_some.mp hm
    exact .returnSubroutine h
  | brk =>
    obtain ⟨rfl, h⟩ := onImplied_eq_some.mp hm
    exact .breakInterrupt h
  | rti =>
    obtain ⟨rfl, h⟩ := onImplied_eq_some.mp hm
    exact .returnInterrupt h
  | pha | php =>
    obtain ⟨rfl, h⟩ := onImplied_eq_some.mp hm
    exact .pushRegister h fun _ _ => rfl
  | pla | plp =>
    obtain ⟨rfl, h⟩ := onImplied_eq_some.mp hm
    exact .pullRegister h (fun _ _ => rfl) (fun _ _ => rfl) fun _ _ => rfl

/-- An instruction that has a next state has it as the answer of its meaning. -/
theorem meaningOf_of_exec {i : Instr} {s t : State} (h : exec i s = .next t) :
    meaningOf i.op i.operand s = some (.ok t) := by
  obtain ⟨x, hm, hx⟩ := meaningOf_eq_some i s
  rw [hx, toOutcome_eq_next] at h
  rw [hm, h]

/-- What every one of the 151 instructions has done when it completes. -/
theorem Completed.exec {i : Instr} {s t : State} (h : Machine.exec i s = .next t) : Completed i.op i.operand s t :=
  .of_meaning (meaningOf_of_exec h)

end Sys2Proof.Machine
end

section
/-! SUPPORT. The proofs of O40, O41 and O38: which mnemonics leave which flag and which register (10_state.md R20 to
R26), read off `registersAfter`; and completion on `ram`. -/

namespace Sys2Proof.Machine

section
variable {o : Op} (a : Operand) (v : Byte) (r : Registers)

theorem registersAfter_carry (ho : o ∉ carryWriters) : (registersAfter o a v r).flags.c = r.flags.c := by
  cases o with
  | adc | sbc | asl | lsr | rol | ror | cmp | cpx | cpy | clc | sec | plp | rti => exact absurd (by decide) ho
  | _ => rfl

/-- Z and N have the same writers (10_state.md R26). -/
theorem registersAfter_zeroNegative (ho : o ∉ zeroNegativeWriters) :
    (registersAfter o a v r).flags.z = r.flags.z ∧ (registersAfter o a v r).flags.n = r.flags.n := by
  cases o with
  | adc | sbc | and | ora | eor | bit | asl | lsr | rol | ror | inc | dec | inx | iny | dex | dey | lda | ldx | ldy
  | tax | tay | txa | tya | tsx | pla | cmp | cpx | cpy | plp | rti => exact absurd (by decide) ho
  | _ => exact ⟨rfl, rfl⟩

theorem registersAfter_interruptDisable (ho : o ∉ interruptDisableWriters) :
    (registersAfter o a v r).flags.i = r.flags.i := by
  cases o with
  | sei | cli | plp | rti | brk => exact absurd (by decide) ho
  | _ => rfl

theorem registersAfter_decimal (ho : o ∉ decimalWriters) : (registersAfter o a v r).flags.d = r.flags.d := by
  cases o with
  | sed | cld | plp | rti => exact absurd (by decide) ho
  | _ => rfl

theorem registersAfter_overflow (ho : o ∉ overflowWriters) : (registersAfter o a v r).flags.v = r.flags.v := by
  cases o with
  | adc | sbc | bit | clv | plp | rti => exact absurd (by decide) ho
  | _ => rfl

/-- A shift outside Accumulator mode leaves A. -/
theorem registersAfter_a (ho : o ∉ accumulatorWriters) (hs : ¬ (o ∈ shiftOps ∧ a = .acc)) :
    (registersAfter o a v r).a = r.a := by
  cases o with
  | adc | sbc | and | ora | eor | lda | pla | txa | tya => exact absurd (by decide) ho
  | asl | lsr | rol | ror => exact if_neg fun ha => hs ⟨by decide, ha⟩
  | _ => rfl

theorem registersAfter_x (ho : o ∉ xWriters) : (registersAfter o a v r).x = r.x := by
  cases o with
  | ldx | tax | tsx | inx | dex => exact absurd (by decide) ho
  | _ => rfl

theorem registersAfter_y (ho : o ∉ yWriters) : (registersAfter o a v r).y = r.y := by
  cases o with
  | ldy | tay | iny | dey => exact absurd (by decide) ho
  | _ => rfl

theorem registersAfter_sp (ho : o ∉ stackPointerWriters) : (registersAfter o a v r).sp = r.sp := by
  cases o with
  | txs | pha | php | pla | plp | jsr | rts | brk | rti => exact absurd (by decide) ho
  | _ => rfl

end

/-- Settles O40: the flags of the next state are those of `registersAfter`, which writes a flag for the listed
mnemonics only. -/
theorem flagWritersOnly : Obligations.FlagWritersOnly := by
  intro i s t h
  obtain ⟨v, hr⟩ := (Completed.exec h).registers
  have hf : t.flags = (registersAfter i.op i.operand v s.registers).flags := congrArg Registers.flags hr
  rw [hf]
  exact ⟨registersAfter_carry _ _ _, fun ho => (registersAfter_zeroNegative _ _ _ ho).1,
    registersAfter_interruptDisable _ _ _, registersAfter_decimal _ _ _, registersAfter_overflow _ _ _,
    fun ho => (registersAfter_zeroNegative _ _ _ ho).2⟩

/-- Settles O41: A, X, Y and SP of the next state are those of `registersAfter`, which writes a register for the
listed mnemonics only. -/
theorem registerWritersOnly : Obligations.RegisterWritersOnly := by
  intro i s t h
  obtain ⟨v, hr⟩ := (Completed.exec h).registers
  exact ⟨fun ho hs => (congrArg Registers.a hr).trans (registersAfter_a _ _ _ ho hs),
    fun ho => (congrArg Registers.x hr).trans (registersAfter_x _ _ _ ho),
    fun ho => (congrArg Registers.y hr).trans (registersAfter_y _ _ _ ho),
    fun ho => (congrArg Registers.sp hr).trans (registersAfter_sp _ _ _ ho)⟩

/-- Settles O38: on `ram` in binary mode nothing can refuse an instruction, and an instruction that completes has
counted its cycles and advanced PC. -/
theorem everyInstructionCompletesOnRam : Obligations.EveryInstructionCompletesOnRam := by
  intro i s hs hd
  obtain ⟨t, ht⟩ := exec_next_of_allRam i hs (by simpa [decimalActive] using hd)
  have done := Completed.exec ht
  exact ⟨t, ht, done.time, fun ho => by rw [length_eq_operandLength]; exact done.pc ho⟩

end Sys2Proof.Machine
end

section
/-! SUPPORT. The proof of O45: where a step leaves the interrupt latch (60_exceptions.md R246, R250). -/

namespace Sys2Proof.Machine

/-- The invariant of O45: a latched NMI is still pending. -/
def LatchHeld (s : State) : Prop := s.intLatch = some .nmi → s.nmiPending = true

theorem LatchHeld.of_none {s : State} (h : s.intLatch = none) : LatchHeld s := fun hn => nomatch h.symm.trans hn

theorem LatchHeld.popInput {s : State} (h : LatchHeld s) : LatchHeld (Machine.popInput s) := h

/-- A poll latches an NMI only where one is pending (60_exceptions.md R246). -/
theorem pollOutcome_eq_nmi {pending irq iPoll : Bool} (h : pollOutcome pending irq iPoll = some .nmi) :
    pending = true := by
  cases pending with
  | true => rfl
  | false => cases irq <;> cases iPoll <;> exact nomatch h

theorem LatchHeld.poll (iPoll : Bool) (s : State) : LatchHeld (Machine.poll iPoll s) := pollOutcome_eq_nmi

/-- BRK is the one instruction that ends without a poll (60_exceptions.md R246). -/
theorem pollFlag_eq_none {o : Op} {before after : Bool} : pollFlag o before after = none ↔ o = .brk := by
  cases o <;> simp [pollFlag]

/-- BRK latches nothing. -/
theorem intLatch_of_exec_brk {i : Instr} {s t : State} (hi : i.op = .brk) (h : exec i s = .next t) :
    t.intLatch = none := by
  have hm := meaningOf_of_exec h
  rw [hi] at hm
  obtain ⟨-, hb⟩ := onImplied_eq_some.mp hm
  obtain ⟨-, u, -, rfl⟩ := breakInterrupt_eq_ok.mp hb
  rfl

/-- After an instruction the latch is what its poll decided, or empty where it makes none. -/
theorem LatchHeld.finishInstr {i : Instr} {before : Bool} {s t : State} (h : exec i s = .next t) :
    LatchHeld (Machine.finishInstr i.op before t) := by
  refine LatchHeld.popInput ?_
  unfold pollAfter
  split
  · rename_i hp
    exact .of_none (intLatch_of_exec_brk (pollFlag_eq_none.mp hp) h)
  · exact .poll _ _

/-- Settles O45, by the kind of the step: a reset and an interrupt sequence latch nothing, and an instruction latches
what its poll decided. So the invariant holds after every step, even from a state that breaks it. -/
theorem latchedNmiIsPending : Obligations.LatchedNmiIsPending := by
  intro s t _ h
  change LatchHeld t
  rcases step_cases h with ⟨d, u, -, hu, rfl⟩ | ⟨kind, u, -, -, hu, rfl⟩ | ⟨i, u, v, -, -, -, hv, rfl⟩
  · obtain ⟨w, u', -, rfl⟩ := takeReset_eq_ok.mp hu
    exact LatchHeld.popInput (.of_none rfl)
  · obtain ⟨-, u', -, rfl⟩ := interruptEntry_eq_ok.mp hu
    exact LatchHeld.popInput (.of_none rfl)
  · exact .finishInstr hv

end Sys2Proof.Machine
end

section
/-! SUPPORT. The proofs of O15 and O54: the flags byte (10_state.md R30), and PLP and PHP through it. -/

namespace Sys2Proof.Machine

/-- The layout of the flags byte, NV1BDIZC (10_state.md R30). -/
theorem packP_bits (f : Flags) (b : Bool) :
    [7, 6, 5, 4, 3, 2, 1, 0].map (packP b f).getLsbD = [f.n, f.v, true, b, f.d, f.i, f.z, f.c] := by
  obtain ⟨n, v, d, i, z, c⟩ := f
  revert n v d i z c b
  decide

/-- Reading back a packed byte gives the flags. -/
theorem unpackP_packP (b : Bool) (f : Flags) : unpackP (packP b f) = f := by
  have h := packP_bits f b
  simp only [List.map_cons, List.map_nil, List.cons.injEq] at h
  obtain ⟨hn, hv, -, -, hd, hi, hz, hc, -⟩ := h
  simp only [unpackP, hn, hv, hd, hi, hz, hc]

/-- Packing the flags read from a byte gives the byte with bit 5 set and bit 4 replaced by B. -/
theorem packP_unpackP (b : Bool) (v : Byte) :
    packP b (unpackP v) = (v &&& 0xCF) ||| (if b then 0x30 else 0x20) := by
  have h := packP_bits (unpackP v) b
  simp only [List.map_cons, List.map_nil, List.cons.injEq] at h
  obtain ⟨h7, h6, h5, h4, h3, h2, h1, h0, -⟩ := h
  apply BitVec.eq_of_getLsbD_eq
  intro k hk
  interval_cases k <;>
    simp only [h0, h1, h2, h3, h4, h5, h6, h7, BitVec.getLsbD_or, BitVec.getLsbD_and] <;>
    cases b <;> simp [unpackP]

/-- Settles O15: both readings back follow from the layout, bit by bit. -/
theorem flagsByteLayout : Obligations.FlagsByteLayout :=
  ⟨packP_bits, fun _ => rfl, fun f b => unpackP_packP b f, fun v b => packP_unpackP b v⟩

theorem packP_true_unpackP (v : Byte) : packP true (unpackP v) = v ||| 0x30 := by
  rw [packP_unpackP]
  apply BitVec.eq_of_getLsbD_eq
  intro k hk
  interval_cases k <;> simp

/-- PLP on `ram`: the flags are those of the byte above SP, and no cell changes (48_stack.md R213). -/
theorem exec_plp_of_allRam {s : State} (hs : AllRam s.platform) :
    ∃ t, exec .plp s = .next t ∧ t.sp = s.sp + 1 ∧ t.mem = s.mem ∧
      t.flags = unpackP (cellAt s.mem (stackAddr (s.sp + 1))) := by
  have hpull := pull_of_memRead (memRead_cell (.inl (hs (stackAddr (s.sp + 1)))))
  refine ⟨_, toOutcome_eq_next.mpr (pullRegister_eq_ok.mpr ⟨?_, ?_, _, _, hpull, rfl⟩), rfl, rfl, rfl⟩ <;>
    simp [hs.kindAt]

/-- PHP on `ram`: the flags byte with B = 1 goes to the cell at SP (48_stack.md R212). -/
theorem exec_php_of_allRam {s : State} (hs : AllRam s.platform) :
    ∃ t, exec .php s = .next t ∧ t.sp = s.sp - 1 ∧
      t.mem = cellStore s.platform s.mem (stackAddr s.sp) (packP true s.flags) := by
  refine ⟨_, toOutcome_eq_next.mpr (pushRegister_eq_ok.mpr ⟨?_, _, push_eq_ok.mpr ⟨?_, rfl⟩, rfl⟩), rfl, rfl⟩ <;>
    simp [hs.kindAt]

/-- Settles O54: PLP leaves SP at the cell it pulled from, so PHP writes the packed flags there. -/
theorem pullThenPushSetsBits5And4 : Obligations.PullThenPushSetsBits5And4 := by
  intro s hs hm
  obtain ⟨u, hu, husp, humem, huflags⟩ := exec_plp_of_allRam hs
  have hup : AllRam u.platform := by rwa [(Keeps.exec hu).platform]
  obtain ⟨t, ht, htsp, htmem⟩ := exec_php_of_allRam hup
  refine ⟨t, by simp only [execAll, hu, ht], by rw [htsp, husp, BitVec.add_sub_cancel], ?_⟩
  rw [htmem, husp, humem, huflags, packP_true_unpackP]
  exact cellAt_cellStore_same _ hm (hup _)

end Sys2Proof.Machine
end

section
/-! SUPPORT. The proofs of O9 and O46: the overflow pin and the reset state. -/

namespace Sys2Proof.Machine

/-- Settles O9: both kinds of step that are no reset begin with the overflow pin, which reads the given record. -/
theorem overflowPinSetsV : Obligations.OverflowPinSetsV := by
  intro s e he
  have hr : resetNext s = false := resetNext_eq_false.mpr ⟨e, he⟩
  refine ⟨?_, step_instr hr, fun _ => step_interrupt hr⟩
  rw [overflowPin, currentEnv_of_env he]
  rfl

/-- Settles O46, by evaluating the reset state; its latch is empty, so no NMI is latched that is not pending. -/
theorem resetStateIsAsTheSpecSays : Obligations.ResetStateIsAsTheSpecSays :=
  ⟨rfl, rfl, rfl, rfl, rfl, rfl, rfl, rfl, fun _ => rfl, rfl, LatchHeld.of_none rfl⟩

end Sys2Proof.Machine
end

section
/-! SUPPORT. The proofs of O10 and O11: MemRead and MemWrite by the kind of the address (20_memory.md R54, R55). -/

namespace Sys2Proof.Machine

/-- A MemRead of a device takes the next byte of the environment. -/
theorem memRead_device {addr : Word} {s : State} (h : kindAt s.platform addr = .device) :
    memRead addr s = .ok (deviceByte s, (afterDeviceRead s).record (.read addr (deviceByte s))) := by
  unfold memRead
  rw [h]

theorem deviceByte_cons {s : State} {b : Byte} {bs : List Byte} (h : s.deviceIn = b :: bs) : deviceByte s = b := by
  unfold deviceByte
  rw [h]

/-- Settles O10, kind by kind; past the end of the environment's list the byte is the free value. -/
theorem memReadByKind : Obligations.MemReadByKind := by
  intro s addr
  refine ⟨memRead_cell, fun hk b bs hb => ?_, fun hk hb => ⟨deviceByte s, ?_⟩, fun hk => memRead_error.mpr ⟨hk, rfl⟩⟩
  · rw [memRead_device hk, deviceByte_cons hb]
    simp only [afterDeviceRead, State.setDeviceIn, State.setDeviceReads, State.record, hb, List.tail_cons]
  · rw [memRead_device hk]
    simp only [afterDeviceRead, State.setDeviceIn, State.setDeviceReads, State.record, hb, List.tail_nil]

/-- A MemWrite at a mapped address that is not `ram` is recorded and changes no cell. -/
theorem memWrite_not_ram {addr : Word} (v : Byte) {s : State} (hm : kindAt s.platform addr ≠ .unmapped)
    (hr : kindAt s.platform addr ≠ .ram) : memWrite addr v s = .ok (s.record (.write addr v)) := by
  rw [memWrite_ok v hm, cellStore_not_ram hr]
  rfl

/-- Settles O11, by what a write does to the cells (`cellStore`) at each kind of address. -/
theorem memWriteByKind : Obligations.MemWriteByKind := by
  intro s addr v hwf
  refine ⟨fun hk => ?_, fun hk => ?_, fun hk => memWrite_error.mpr ⟨hk, rfl⟩⟩
  · exact ⟨cellStore s.platform s.mem addr v, memWrite_ok v (by simp [hk]), wf_cellStore hwf,
      cellAt_cellStore_same v hwf hk, fun _ hne => cellAt_cellStore_other _ _ v hne⟩
  · rcases hk with hk | hk <;> exact memWrite_not_ram v (by simp [hk]) (by simp [hk])

end Sys2Proof.Machine
end

section
/-! SUPPORT. The proofs of O43 and O44: what every step of any kind does to memory is what the shared operations
do (`Keeps`), since the input taken at its end and its poll touch no cell. -/

namespace Sys2Proof.Machine

theorem Keeps.interruptEntry {kind : Interrupt} {s t : State} (h : Machine.interruptEntry kind s = .ok t) :
    Keeps s t := by
  obtain ⟨-, u, hu, rfl⟩ := interruptEntry_eq_ok.mp h
  exact (Keeps.takeInterrupt hu).andThen rfl rfl rfl rfl rfl

theorem Keeps.takeReset {d : ResetDraw} {s t : State} (h : Machine.takeReset d s = .ok t) : Keeps s t := by
  obtain ⟨_, u, hu, rfl⟩ := takeReset_eq_ok.mp h
  exact (Keeps.read16 hu).andThen rfl rfl rfl rfl rfl

theorem finishInstr_mem (o : Op) (before : Bool) (s : State) : (finishInstr o before s).mem = s.mem := by
  unfold finishInstr pollAfter
  split <;> rfl

/-- Every step leaves the memory of a state that keeps what the operations keep. -/
theorem exists_keeps_of_step {s t : State} (h : step s = .next t) : ∃ u, Keeps s u ∧ t.mem = u.mem := by
  rcases step_cases h with ⟨d, u, -, hu, rfl⟩ | ⟨kind, u, -, -, hu, rfl⟩ | ⟨i, u, v, -, -, hf, hv, rfl⟩
  · exact ⟨u, .takeReset hu, rfl⟩
  · exact ⟨u, (Keeps.overflowPin s).trans (.interruptEntry hu), rfl⟩
  · exact ⟨v, ((Keeps.overflowPin s).trans (.fetch hf)).trans (.exec hv), finishInstr_mem _ _ _⟩

/-- Settles O43: `Keeps.cells` of the step. -/
theorem onlyRamChanges : Obligations.OnlyRamChanges := by
  intro s t addr h ha
  obtain ⟨u, hk, hm⟩ := exists_keeps_of_step h
  rw [hm]
  exact hk.cells addr ha

/-- Settles O44: `Keeps.canonical` of the step. -/
theorem memoryStaysCanonical : Obligations.MemoryStaysCanonical := by
  intro s t hwf h
  obtain ⟨u, hk, hm⟩ := exists_keeps_of_step h
  rw [hm]
  exact hk.canonical hwf

end Sys2Proof.Machine
end

section
/-! SUPPORT. The proof of O42: the shared shapes of the instructions that do not write memory (20_memory.md R51)
leave the list of cells as it is. -/

namespace Sys2Proof.Machine

-- What only reads, changes no cell

theorem mem_of_withBus {s t : State} (h : s.withBus t = t) : t.mem = s.mem := by
  rw [← h]
  rfl

theorem pull_mem {v : Byte} {s t : State} (h : pull s = .ok (v, t)) : t.mem = s.mem := by
  rw [(pull_frame h).1]
  rfl

theorem pullWord_mem {w : Word} {s t : State} (h : pullWord s = .ok (w, t)) : t.mem = s.mem := by
  rw [(pullWord_frame h).1]
  rfl

theorem withSource_keeps_mem {src : Source} {f : Byte → State → State} {s t : State}
    (h : withSource src f s = .ok t) (hf : ∀ v u, (f v u).mem = u.mem) : t.mem = s.mem := by
  obtain ⟨v, u, n, rfl, -⟩ := withSource_inv h
  exact hf v ((s.withBus u).tick n)

/-- ADC outside decimal mode is an instruction of the read kind. -/
theorem addCarry_of_decimal_false {src : Source} {s : State} (h : decimalActive s = false) :
    addCarry src s = withSource src addToA s := by
  simp [addCarry, h]

/-- SBC outside decimal mode adds the complement of its operand byte. -/
theorem subtractCarry_of_decimal_false {src : Source} {s : State} (h : decimalActive s = false) :
    subtractCarry src s = withSource src (fun m => addToA (sbcOperand m)) s := by
  simp [subtractCarry, h]

theorem addCarry_eq_ok {src : Source} {s t : State} : addCarry src s = .ok t ↔
    decimalActive s = false ∧ withSource src addToA s = .ok t := by
  cases hd : decimalActive s with
  | false => simp [addCarry_of_decimal_false hd]
  | true => simp [addCarry, hd]

theorem subtractCarry_eq_ok {src : Source} {s t : State} : subtractCarry src s = .ok t ↔
    decimalActive s = false ∧ withSource src (fun m => addToA (sbcOperand m)) s = .ok t := by
  cases hd : decimalActive s with
  | false => simp [subtractCarry_of_decimal_false hd]
  | true => simp [subtractCarry, hd]

theorem pullRegister_mem {f : Byte → State → State} {s t : State} (h : pullRegister f s = .ok t)
    (hf : ∀ v u, (f v u).mem = u.mem) : t.mem = s.mem := by
  obtain ⟨-, -, v, u, hu, rfl⟩ := pullRegister_eq_ok.mp h
  exact (hf v u).trans (pull_mem hu)

theorem jumpIndirect_mem {p : Word} {s t : State} (h : jumpIndirect p s = .ok t) : t.mem = s.mem := by
  simp only [jumpIndirect, access_bind_eq_ok, access_pure_eq_ok, Prod.exists] at h
  obtain ⟨_, u, hu, rfl⟩ := h
  exact (mem_of_withBus (readPair_frame hu).1 :)

theorem returnSubroutine_mem {s t : State} (h : returnSubroutine s = .ok t) : t.mem = s.mem := by
  simp only [returnSubroutine, access_bind_eq_ok, access_pure_eq_ok, Prod.exists] at h
  obtain ⟨_, -, _, -, _, u, hu, _, -, rfl⟩ := h
  exact (pullWord_mem hu :)

theorem returnInterrupt_mem {s t : State} (h : returnInterrupt s = .ok t) : t.mem = s.mem := by
  simp only [returnInterrupt, access_bind_eq_ok, access_pure_eq_ok, returnFromInterrupt_eq_ok] at h
  obtain ⟨_, -, _, -, _, ⟨p, u, _, u', hu, hu', rfl⟩, rfl⟩ := h
  have hword : u'.mem = (u.setFlags (unpackP p)).mem := pullWord_mem hu'
  have hbyte : u.mem = s.mem := pull_mem hu
  exact hword.trans hbyte

/-- The mnemonics that write memory in every form (20_memory.md R51); the shifts write it outside Accumulator mode. -/
def memoryWriters : List Op := [Op.sta, .stx, .sty, .inc, .dec, .pha, .php, .jsr, .brk]

theorem writesMemory_iff {i : Instr} :
    writesMemory i ↔ i.op ∈ memoryWriters ∨ i.op ∈ shiftOps ∧ i.operand ≠ .acc := Iff.rfl

/-- A mnemonic outside the writers of R51 leaves memory, and a shift does in Accumulator mode; by the family of the
mnemonic. -/
theorem mem_of_meaningOf {o : Op} {a : Operand} {s t : State} (hm : meaningOf o a s = some (.ok t))
    (ho : o ∉ memoryWriters) (hs : o ∈ shiftOps → a = .acc) : t.mem = s.mem := by
  cases o with
  | sta | stx | sty | inc | dec | pha | php | jsr | brk => exact absurd (by decide) ho
  | lda | ldx | ldy | and | ora | eor | cmp | cpx | cpy =>
    obtain ⟨src, -, h⟩ := onSource_eq_some.mp hm
    exact withSource_keeps_mem h fun _ _ => rfl
  | bit =>
    obtain ⟨m, -, h⟩ := onMem_eq_some.mp hm
    exact withSource_keeps_mem h fun _ _ => rfl
  | adc =>
    obtain ⟨src, -, h⟩ := onSource_eq_some.mp hm
    exact withSource_keeps_mem (addCarry_eq_ok.mp h).2 fun _ _ => rfl
  | sbc =>
    obtain ⟨src, -, h⟩ := onSource_eq_some.mp hm
    exact withSource_keeps_mem (subtractCarry_eq_ok.mp h).2 fun _ _ => rfl
  | asl | lsr | rol | ror =>
    rw [hs (by decide)] at hm
    obtain ⟨-, rfl⟩ := modifyA_eq_ok.mp (Option.some.inj hm)
    rfl
  | tax | txa | tay | tya | inx | dex | iny | dey | txs | tsx | clc | sec | cli | sei | cld | sed | clv | nop =>
    obtain ⟨-, h⟩ := onImplied_eq_some.mp hm
    obtain ⟨-, rfl⟩ := implied_eq_ok.mp h
    rfl
  | bcc | bcs | beq | bne | bpl | bmi | bvc | bvs =>
    obtain ⟨offset, -, h⟩ := onRel_eq_some.mp hm
    obtain ⟨_, _, rfl, -⟩ := branch_inv h
    rfl
  | jmp =>
    rcases onTarget_eq_some.mp hm with ⟨w, -, h⟩ | ⟨p, -, h⟩
    · obtain rfl := Except.ok.inj h
      rfl
    · exact jumpIndirect_mem (Option.some.inj h)
  | rts =>
    obtain ⟨-, h⟩ := onImplied_eq_some.mp hm
    exact returnSubroutine_mem h
  | rti =>
    obtain ⟨-, h⟩ := onImplied_eq_some.mp hm
    exact returnInterrupt_mem h
  | pla | plp =>
    obtain ⟨-, h⟩ := onImplied_eq_some.mp hm
    exact pullRegister_mem h fun _ _ => rfl

/-- Settles O42: an instruction that completes does what its meaning does, and `writesMemory` lists the mnemonics and
forms whose meaning writes. -/
theorem memoryWritersOnly : Obligations.MemoryWritersOnly := by
  intro i s t h hw
  obtain ⟨ho, hs⟩ := not_or.mp (writesMemory_iff.not.mp hw)
  exact mem_of_meaningOf (meaningOf_of_exec h) ho fun hshift => by_contra fun ha => hs ⟨hshift, ha⟩

end Sys2Proof.Machine
end

section
/-! SUPPORT. The proof of O13 (20_memory.md R60, 93_implementation_defined.md U9): what each instruction begins with, up
to its first discarded reads, and that the first of them that hits a device refuses it. -/

namespace Sys2Proof.Machine

-- A sequence that begins with a discarded read

/-- A discarded read of a device ends the operation, whatever follows. -/
theorem extraRead_bind_device {α : Type} {addr : Word} {s : State} (h : kindAt s.platform addr = .device)
    (k : Unit → Access α) : (extraRead addr s >>= k) = .error (.platformAccess addr) := by
  rw [extraRead_error.mpr ⟨h, rfl⟩, access_error_bind]

/-- A discarded read of anything else leaves what follows. -/
theorem extraRead_bind_not_device {α : Type} {addr : Word} {s : State} (h : kindAt s.platform addr ≠ .device)
    (k : Unit → Access α) : (extraRead addr s >>= k) = k () := by
  rw [extraRead_ok h, access_ok_bind]

-- Instructions without an operand

/-- The operand forms of one byte, opcode included, are Implied and Accumulator (30_encoding.md R80, R81). -/
theorem operandLength_eq_one {a : Operand} : Laws.operandLength a = 1 ↔ a = .imp ∨ a = .acc := by
  rcases a with _ | _ | ⟨_ | ⟨_ | _ | _ | _ | _ | _ | _ | _⟩⟩ | _ | _ <;> simp [Laws.operandLength]

/-- Every one-byte instruction begins with the discarded read of the byte after its opcode (U9). -/
theorem meaningOf_one_byte {o : Op} {a : Operand} {s : State} {x : Access State} (ha : a = .imp ∨ a = .acc)
    (hm : meaningOf o a s = some x) : ∃ k : Unit → Access State, x = (extraRead (s.pc + 1) s >>= k) := by
  cases o with
  | tax | txa | tay | tya | inx | dex | iny | dey | txs | tsx | clc | sec | cli | sei | cld | sed | clv | nop
  | rts | brk | rti | pha | pla | php | plp =>
    obtain ⟨-, rfl⟩ := onImplied_eq_some.mp hm
    exact ⟨_, rfl⟩
  | asl | lsr | rol | ror =>
    rcases onAccOrMem_eq_some.mp hm with ⟨-, rfl⟩ | ⟨m, rfl, -⟩
    · exact ⟨_, rfl⟩
    · simp at ha
  | _ => rcases ha with rfl | rfl <;> exact nomatch hm

/-- The four instructions that pull make a second discarded read, at the stack pointer (U9). -/
theorem meaningOf_pulling {o : Op} {a : Operand} {s : State} {x : Access State}
    (ho : o = .pla ∨ o = .plp ∨ o = .rts ∨ o = .rti) (hm : meaningOf o a s = some x) :
    ∃ k : Unit → Access State, x = (extraRead (s.pc + 1) s >>= fun _ => extraRead (stackAddr s.sp) s >>= k) := by
  rcases ho with rfl | rfl | rfl | rfl
  all_goals
    obtain ⟨-, rfl⟩ := onImplied_eq_some.mp hm
    exact ⟨_, rfl⟩

theorem exec_one_byte_refused {i : Instr} {s : State} (hi : i.length = 1)
    (hk : kindAt s.platform (s.pc + 1) = .device) : exec i s = .refused (.platformAccess (s.pc + 1)) := by
  obtain ⟨x, hm, hx⟩ := meaningOf_eq_some i s
  obtain ⟨k, rfl⟩ := meaningOf_one_byte (operandLength_eq_one.mp (length_eq_operandLength i ▸ hi)) hm
  rw [hx, extraRead_bind_device hk, toOutcome_error]

theorem exec_pulling_refused {i : Instr} {s : State} (hi : i.op = .pla ∨ i.op = .plp ∨ i.op = .rts ∨ i.op = .rti)
    (hpc : kindAt s.platform (s.pc + 1) ≠ .device) (hsp : kindAt s.platform (stackAddr s.sp) = .device) :
    exec i s = .refused (.platformAccess (stackAddr s.sp)) := by
  obtain ⟨x, hm, hx⟩ := meaningOf_eq_some i s
  obtain ⟨k, rfl⟩ := meaningOf_pulling hi hm
  rw [hx, extraRead_bind_not_device hpc, extraRead_bind_device hsp, toOutcome_error]

theorem exec_jsr_refused {w : Word} {s : State} (hk : kindAt s.platform (stackAddr s.sp) = .device) :
    exec (.jsr w) s = .refused (.platformAccess (stackAddr s.sp)) :=
  congrArg toOutcome (extraRead_bind_device hk _)

/-- RTS reads and discards at the address it pulled (U9). -/
theorem exec_rts_refused {s u1 u2 : State} {lo hi : Byte} (hpc : kindAt s.platform (s.pc + 1) ≠ .device)
    (hsp : kindAt s.platform (stackAddr s.sp) ≠ .device)
    (h1 : memRead (stackAddr (s.sp + 1)) s = .ok (lo, u1)) (h2 : memRead (stackAddr (s.sp + 2)) u1 = .ok (hi, u2))
    (hk : kindAt s.platform (wordOf hi lo) = .device) : exec .rts s = .refused (.platformAccess (wordOf hi lo)) := by
  have hx : returnSubroutine s = .error (.platformAccess (wordOf hi lo)) := by
    rw [returnSubroutine, extraRead_bind_not_device hpc, extraRead_bind_not_device hsp,
      pullWord_of_memRead h1 h2, access_ok_bind]
    exact extraRead_bind_device hk _
  exact congrArg toOutcome hx

/-- The interrupt sequence reads and discards the opcode it does not execute (U9). -/
theorem step_interrupt_refused {s : State} {kind : Interrupt} (hr : resetNext s = false)
    (hl : s.intLatch = some kind) (hk : kindAt s.platform s.pc = .device) :
    step s = .refused (.platformAccess s.pc) := by
  have hx : interruptEntry kind (overflowPin s) = .error (.platformAccess s.pc) := by
    rw [interruptEntry, overflowPin_pc]
    exact extraRead_bind_device (by rwa [overflowPin_platform]) _
  rw [step_interrupt hr hl, stepInterrupt, hx]
  rfl

-- Memory modes

/-- The zero-page indexed modes read and discard at the unindexed address (U9). -/
theorem effective_zeroPageIndexed_refused {s : State} (kind : AccessKind) {b : Byte}
    (hk : kindAt s.platform (zeroPage b) = .device) :
    effective kind (.zpx b) s = .error (.platformAccess (zeroPage b)) ∧
    effective kind (.zpy b) s = .error (.platformAccess (zeroPage b)) ∧
    effective kind (.indx b) s = .error (.platformAccess (zeroPage b)) :=
  ⟨extraRead_bind_device hk _, extraRead_bind_device hk _, extraRead_bind_device hk _⟩

/-- Adding an index reads and discards at the address without the carry: before a write always, before a read where a
page is crossed (U9). -/
theorem indexed_refused {kind : AccessKind} {base : Word} {index : Byte} {s : State}
    (hk : kindAt s.platform (wordOf (hi8 base) (lo8 (base + index.setWidth 16))) = .device)
    (hc : kind = .read → hi8 (base + index.setWidth 16) ≠ hi8 base) :
    indexed kind base index s = .error (.platformAccess (wordOf (hi8 base) (lo8 (base + index.setWidth 16)))) := by
  have hread : kind ≠ .read ∨ pageCrossed base (base + index.setWidth 16) = true := by
    by_cases h : kind = .read
    · exact .inr (decide_eq_true (hc h))
    · exact .inl h
  unfold indexed
  dsimp only
  rw [if_pos hread]
  exact extraRead_bind_device hk _

/-- A pointer mode that reads its pointer goes on as the indexed mode at the pointer's word. -/
theorem effective_indy {kind : AccessKind} {b lo hi : Byte} {s u1 u2 : State}
    (h1 : memRead (zeroPage b) s = .ok (lo, u1)) (h2 : memRead (zeroPage (b + 1)) u1 = .ok (hi, u2)) :
    effective kind (.indy b) s = indexed kind (wordOf hi lo) s.y u2 ∧ u2.platform = s.platform := by
  have hp : readPointer b s = .ok (wordOf hi lo, u2) := readPair_eq_ok.mpr ⟨lo, u1, hi, h1, h2, rfl⟩
  have hf := (readPointer_frame hp).1
  have hy : u2.y = s.y := by rw [← hf]; rfl
  refine ⟨?_, by rw [← hf]; rfl⟩
  simp only [effective, hp, access_ok_bind, hy]

-- What is refused with its effective address

theorem withSource_refused {m : MemMode} {f : Byte → State → State} {s : State} {r : Refusal}
    (h : effective .read m s = .error r) : withSource (.mem m) f s = .error r := by
  simp only [withSource, readSource, h, access_error_bind]

theorem storeByte_refused {m : MemMode} {v : Byte} {s : State} {r : Refusal} (h : effective .write m s = .error r) :
    storeByte m v s = .error r := by
  rw [storeByte, h, access_error_bind]

theorem modifyMem_refused {m : MemMode} {f : ByteOp} {s : State} {r : Refusal} (h : effective .rmw m s = .error r) :
    modifyMem m f s = .error r := by
  rw [modifyMem, h, access_error_bind]

/-- The access kind of a mnemonic with a memory mode (30_encoding.md R95); `meaningOf_mem_refused` ties it to the
model's meanings. -/
def accessKindOf (o : Op) : AccessKind :=
  match o with
  | .sta | .stx | .sty => .write
  | .inc | .dec | .asl | .lsr | .rol | .ror => .rmw
  | _ => .read

/-- An instruction in a memory mode is refused where the mode is, resolved with the access kind of its mnemonic. -/
theorem meaningOf_mem_refused {o : Op} {m : MemMode} {s : State} {x : Access State} {r : Refusal}
    (hm : meaningOf o (.src (.mem m)) s = some x) (hd : o = .adc ∨ o = .sbc → decimalActive s = false)
    (he : effective (accessKindOf o) m s = .error r) : x = .error r := by
  cases o with
  | lda | ldx | ldy | and | ora | eor | cmp | cpx | cpy | bit =>
    obtain rfl := Option.some.inj hm
    exact withSource_refused he
  | adc =>
    obtain rfl := Option.some.inj hm
    exact (addCarry_of_decimal_false (hd (.inl rfl))).trans (withSource_refused he)
  | sbc =>
    obtain rfl := Option.some.inj hm
    exact (subtractCarry_of_decimal_false (hd (.inr rfl))).trans (withSource_refused he)
  | sta | stx | sty =>
    obtain rfl := Option.some.inj hm
    exact storeByte_refused he
  | inc | dec | asl | lsr | rol | ror =>
    obtain rfl := Option.some.inj hm
    exact modifyMem_refused he
  | jmp | jsr =>
    cases m with
    | abs w => exact nomatch he
    | _ => exact nomatch hm
  | _ => exact nomatch hm

theorem decimalActive_of_not_decimalStop {i : Instr} {s : State} (h : ¬ decimalStop i s)
    (hi : i.op = .adc ∨ i.op = .sbc) : decimalActive s = false := by
  by_contra hd
  exact h ⟨hi, by simpa [decimalActive] using hd⟩

theorem exec_mem_refused {i : Instr} {m : MemMode} {s : State} {r : Refusal} (hd : ¬ decimalStop i s)
    (hi : i.operand = .src (.mem m)) (he : effective (accessKindOf i.op) m s = .error r) :
    exec i s = .refused r := by
  obtain ⟨x, hm, hx⟩ := meaningOf_eq_some i s
  rw [hi] at hm
  rw [hx, meaningOf_mem_refused hm (decimalActive_of_not_decimalStop hd) he, toOutcome_error]

/-- A mnemonic that writes memory does not resolve its memory mode as a read. Of the writers that push (R51)
only JSR has a memory form, Absolute, which adds no index. -/
theorem accessKindOf_ne_read {o : Op} {m : MemMode} {s : State} {x : Access State}
    (hm : meaningOf o (.src (.mem m)) s = some x)
    (ho : o ∈ memoryWriters ∨ o ∈ shiftOps) (habs : ∀ w, m ≠ .abs w) :
    accessKindOf o ≠ .read := by
  cases o with
  | sta | stx | sty | inc | dec | asl | lsr | rol | ror => exact nofun
  | pha | php | brk => exact nomatch hm
  | jsr =>
    cases m with
    | abs w => exact absurd rfl (habs w)
    | _ => exact nomatch hm
  | _ => exact absurd ho (by decide)

/-- An instruction whose memory mode ends in the addition of an index is refused for the address without the carry. -/
theorem exec_indexed_refused {i : Instr} {m : MemMode} {base : Word} {index : Byte} {s u : State}
    (hd : ¬ decimalStop i s) (hi : i.operand = .src (.mem m)) (habs : ∀ w, m ≠ .abs w)
    (he : effective (accessKindOf i.op) m s = indexed (accessKindOf i.op) base index u)
    (hk : kindAt u.platform (wordOf (hi8 base) (lo8 (base + index.setWidth 16))) = .device)
    (hc : writesMemory i ∨ hi8 (base + index.setWidth 16) ≠ hi8 base) :
    exec i s = .refused (.platformAccess (wordOf (hi8 base) (lo8 (base + index.setWidth 16)))) := by
  refine exec_mem_refused hd hi (he.trans (indexed_refused hk fun hread => hc.resolve_left fun hw => ?_))
  obtain ⟨x, hm, -⟩ := meaningOf_eq_some i s
  rw [hi] at hm
  exact accessKindOf_ne_read hm ((writesMemory_iff.mp hw).imp_right And.left) habs hread

-- Branches

/-- A branch with the condition of R189 is the common branch operation with it. -/
theorem exec_rel {i : Instr} {offset : Int} {s : State} {cond : Bool} (hi : i.operand = .rel offset)
    (hc : branchCondition i.op s.flags = some cond) : exec i s = toOutcome (branch cond offset s) := by
  obtain ⟨x, hm, hx⟩ := meaningOf_eq_some i s
  rw [hi] at hm
  rw [hx]
  generalize i.op = o at hm hc
  cases o with
  | bcc | bcs | beq | bne | bpl | bmi | bvc | bvs =>
    obtain rfl := Option.some.inj hm
    obtain rfl := Option.some.inj hc
    simp
  | _ => exact nomatch hm

/-- A taken branch reads and discards the next opcode (U9). -/
theorem branch_next_refused {offset : Int} {s : State} (hk : kindAt s.platform (s.pc + 2) = .device) :
    branch true offset s = .error (.platformAccess (s.pc + 2)) := by
  simp only [branch, if_true]
  exact extraRead_bind_device hk _

/-- A taken branch to another page also reads and discards at the target without the carry (U9). -/
theorem branch_uncarried_refused {offset : Int} {s : State} (hk : kindAt s.platform (s.pc + 2) ≠ .device)
    (hpage : hi8 (s.pc + 2) ≠ hi8 (branchTarget s.pc offset))
    (hu : kindAt s.platform (wordOf (hi8 (s.pc + 2)) (lo8 (branchTarget s.pc offset))) = .device) :
    branch true offset s = .error (.platformAccess (wordOf (hi8 (s.pc + 2)) (lo8 (branchTarget s.pc offset)))) := by
  have hcrossed : pageCrossed (s.pc + 2) (branchTarget s.pc offset) = true := decide_eq_true hpage.symm
  simp only [branch, if_true, hcrossed]
  rw [extraRead_bind_not_device hk, extraRead_bind_device hu]

/-- Settles O13, row by row of the table of U9: by the premises of its row nothing before the discarded read refuses
the instruction, so the device it falls on does. -/
theorem extraReadsOnDevicesAreRefused : Obligations.ExtraReadsOnDevicesAreRefused := by
  refine ⟨fun i s => exec_one_byte_refused, fun w s => exec_jsr_refused, fun i s => exec_pulling_refused,
    fun s u1 u2 lo hi => exec_rts_refused, fun s kind => step_interrupt_refused, ?zeroPage, ?absolute, ?indirect,
    ?branches, fun s kind b => effective_zeroPageIndexed_refused kind, fun s kind base index => indexed_refused⟩
  case zeroPage =>
    intro i s b hd hi hk
    obtain ⟨hx, hy, hind⟩ := effective_zeroPageIndexed_refused (accessKindOf i.op) hk
    rcases hi with hi | hi | hi
    · exact exec_mem_refused hd hi hx
    · exact exec_mem_refused hd hi hy
    · exact exec_mem_refused hd hi hind
  case absolute =>
    intro i s base index hd hi
    rcases hi with ⟨hi, rfl⟩ | ⟨hi, rfl⟩ <;> exact exec_indexed_refused hd hi nofun rfl
  case indirect =>
    intro i s u1 u2 b lo hi hd ha h1 h2 base addr uncarried hk
    obtain ⟨he, hp⟩ := effective_indy (kind := accessKindOf i.op) h1 h2
    exact exec_indexed_refused hd ha nofun he (hp ▸ hk)
  case branches =>
    intro i offset s hi hc
    rw [exec_rel hi hc]
    exact ⟨fun hk => congrArg toOutcome (branch_next_refused hk),
      fun hk hpage hu => congrArg toOutcome (branch_uncarried_refused hk hpage hu)⟩

end Sys2Proof.Machine
end

section
/-! SUPPORT. The proofs of O1, O2 and O3 (30_encoding.md R80, R100, R104, R106): the decoder reads an opcode and the
operand bytes of its layout, and the encoder writes, row by row of the opcode map, the bytes the layout reads. -/

namespace Sys2Proof

-- What the decoder does

/-- The operand bytes a layout reads, and the instruction it makes of them (30_encoding.md R80, low byte first in F3);
`decode_eq_ok` ties it to the decoder. -/
inductive Layout.Makes : Layout → List Byte → Instr → Prop
  | f1 (i : Instr) : Makes (.f1 i) [] i
  | f2 (make : Byte → Instr) (b : Byte) : Makes (.f2 make) [b] (make b)
  | f3 (make : Word → Instr) (w : Word) : Makes (.f3 make) [lo8 w, hi8 w] (make w)

/-- A branch row makes the branch of an offset in range from the byte of that offset (30_encoding.md R93). -/
theorem Layout.Makes.branch (make : Int → Instr) {offset : Int} (h : OffsetInRange offset) :
    Makes (.f2 fun b => make (sext8 b)) [offsetByte offset] (make offset) := by
  have hmakes := Makes.f2 (fun b => make (sext8 b)) (offsetByte offset)
  rwa [sext8_offsetByte h] at hmakes

/-- Bytes decode exactly where they begin with an opcode of the map and the operand bytes its layout reads. -/
theorem decode_eq_ok {bytes rest : List Byte} {i : Instr} : decode bytes = .ok (i, rest) ↔
    ∃ opcode operands layout, bytes = opcode :: operands ++ rest ∧ layoutOf opcode = some layout ∧
      layout.Makes operands i := by
  constructor
  · intro h
    unfold decode at h
    split at h
    · exact nomatch h
    · rename_i opcode tail
      split at h
      · exact nomatch h
      · rename_i j hl
        obtain ⟨rfl, rfl⟩ := h
        exact ⟨opcode, [], _, rfl, hl, .f1 i⟩
      · rename_i make hl
        split at h
        · rename_i b1 tail
          obtain ⟨rfl, rfl⟩ := h
          exact ⟨opcode, [b1], _, rfl, hl, .f2 make b1⟩
        · exact nomatch h
      · rename_i make hl
        split at h
        · rename_i b1 b2 tail
          obtain ⟨rfl, rfl⟩ := h
          have hmakes := Layout.Makes.f3 make (wordOf b2 b1)
          rw [lo8_wordOf, hi8_wordOf] at hmakes
          exact ⟨opcode, [b1, b2], _, rfl, hl, hmakes⟩
        · exact nomatch h
  · rintro ⟨opcode, operands, layout, rfl, hl, hmakes⟩
    cases hmakes <;> simp [decode, hl]

-- The encoder writes what the opcode map reads

theorem findLayout_append (opcode : Byte) (l1 l2 : List OpcodeRow) :
    findLayout opcode (l1 ++ l2) = (findLayout opcode l1).or (findLayout opcode l2) := by
  induction l1 with
  | nil => rfl
  | cons r rest ih =>
    simp only [List.cons_append, findLayout]
    split
    · rfl
    · exact ih

/-- The opcode map is looked up quarter by quarter, so that evaluating a lookup in it stays shallow. -/
theorem layoutOf_eq_or (opcode : Byte) : layoutOf opcode =
    (((findLayout opcode opcodeRows03).or (findLayout opcode opcodeRows47)).or (findLayout opcode opcodeRows8B)).or
      (findLayout opcode opcodeRowsCF) := by
  simp only [layoutOf, opcodeRows, findLayout_append]

/-- The bytes of every instruction are an opcode of the map and operand bytes from which its layout makes the
instruction again. -/
theorem exists_layout_of_encode {i : Instr} (h : i.WellFormed) : ∃ opcode operands layout,
    encode i = opcode :: operands ∧ layoutOf opcode = some layout ∧ layout.Makes operands i := by
  cases i with
  | bcc offset | bcs offset | beq offset | bne offset | bpl offset | bmi offset | bvc offset | bvs offset =>
    exact ⟨_, _, _, rfl, (layoutOf_eq_or _).trans rfl, .branch _ (of_decide_eq_true h)⟩
  | tax | txa | tay | tya | inx | dex | iny | dey | aslAcc | lsrAcc | rolAcc | rorAcc | rts | brk | rti | pha | pla
  | php | plp | txs | tsx | clc | sec | cli | sei | cld | sed | clv | nop =>
    exact ⟨_, _, _, rfl, (layoutOf_eq_or _).trans rfl, .f1 _⟩
  | ldaAbs w | ldaAbsx w | ldaAbsy w | staAbs w | staAbsx w | staAbsy w | ldxAbs w | ldxAbsy w | stxAbs w | ldyAbs w
  | ldyAbsx w | styAbs w | adcAbs w | adcAbsx w | adcAbsy w | sbcAbs w | sbcAbsx w | sbcAbsy w | incAbs w | incAbsx w
  | decAbs w | decAbsx w | aslAbs w | aslAbsx w | lsrAbs w | lsrAbsx w | rolAbs w | rolAbsx w | rorAbs w | rorAbsx w
  | andAbs w | andAbsx w | andAbsy w | oraAbs w | oraAbsx w | oraAbsy w | eorAbs w | eorAbsx w | eorAbsy w | bitAbs w
  | cmpAbs w | cmpAbsx w | cmpAbsy w | cpxAbs w | cpyAbs w | jmpAbs w | jmpInd w | jsr w =>
    exact ⟨_, _, _, rfl, (layoutOf_eq_or _).trans rfl, .f3 _ w⟩
  | _ b => exact ⟨_, _, _, rfl, (layoutOf_eq_or _).trans rfl, .f2 _ b⟩

/-- Settles O1: the decoder reads the opcode and the operand bytes that the encoder wrote. -/
theorem decodeReadsBackEncode : Obligations.DecodeReadsBackEncode := by
  intro i rest h
  obtain ⟨opcode, operands, layout, he, hl, hmakes⟩ := exists_layout_of_encode h
  exact decode_eq_ok.mpr ⟨opcode, operands, layout, by rw [he], hl, hmakes⟩

-- The opcode map holds only what the encoder writes

/-- A row of the opcode map is right: whatever instruction its layout makes of operand bytes is well-formed and
encodes as its opcode and those bytes. -/
def OpcodeRow.Encodes (r : OpcodeRow) : Prop :=
  ∀ operands i, r.layout.Makes operands i → i.WellFormed ∧ encode i = r.opcode :: operands

theorem encodes_f1 {opcode : Byte} {i : Instr} (hwf : i.WellFormed) (he : encode i = [opcode]) :
    OpcodeRow.Encodes ⟨opcode, .f1 i⟩ := by
  rintro _ _ ⟨⟩
  exact ⟨hwf, he⟩

theorem encodes_f2 {opcode : Byte} {make : Byte → Instr}
    (h : ∀ b, (make b).WellFormed ∧ encode (make b) = bytes2 opcode b) : OpcodeRow.Encodes ⟨opcode, .f2 make⟩ := by
  rintro _ _ ⟨⟩
  exact h _

theorem encodes_f3 {opcode : Byte} {make : Word → Instr}
    (h : ∀ w, (make w).WellFormed ∧ encode (make w) = bytes3 opcode w) : OpcodeRow.Encodes ⟨opcode, .f3 make⟩ := by
  rintro _ _ ⟨⟩
  exact h _

/-- A branch row is right because every byte is the byte of an offset in range, the one it stands for (R93). -/
theorem encodes_branch {opcode : Byte} {make : Int → Instr}
    (h : ∀ offset, (make offset).operand = .rel offset ∧ encode (make offset) = bytes2 opcode (offsetByte offset)) :
    OpcodeRow.Encodes ⟨opcode, .f2 fun b => make (sext8 b)⟩ := by
  refine encodes_f2 fun b => ?_
  obtain ⟨hoperand, he⟩ := h (sext8 b)
  rw [Instr.WellFormed, hoperand, he, offsetByte_sext8]
  exact ⟨decide_eq_true (offsetInRange_sext8 b), rfl⟩

/-- Every row of the opcode map is right: the lemma of its layout, or that of a branch row, says so. -/
theorem encodes_of_mem_opcodeRows : ∀ r ∈ opcodeRows, r.Encodes := by
  simp only [opcodeRows, opcodeRows03, opcodeRows47, opcodeRows8B, opcodeRowsCF, List.forall_mem_append,
    List.forall_mem_cons, List.not_mem_nil, false_implies, implies_true, and_true]
  and_intros
  all_goals first
    | exact encodes_f1 rfl rfl
    | exact encodes_branch fun _ => ⟨rfl, rfl⟩
    | exact encodes_f2 fun _ => ⟨rfl, rfl⟩
    | exact encodes_f3 fun _ => ⟨rfl, rfl⟩

/-- What the lookup of an opcode gives stands in a row with that opcode. -/
theorem mem_of_findLayout {opcode : Byte} {layout : Layout} {rows : List OpcodeRow}
    (h : findLayout opcode rows = some layout) : ⟨opcode, layout⟩ ∈ rows := by
  induction rows with
  | nil => exact nomatch h
  | cons r rest ih =>
    unfold findLayout at h
    split at h
    · rename_i ho
      obtain rfl := Option.some.inj h
      subst ho
      exact List.mem_cons_self
    · exact List.mem_cons_of_mem r (ih h)

/-- Settles O2: the row of the opcode that was read encodes what its layout made of the operand bytes. -/
theorem encodeWritesBackDecode : Obligations.EncodeWritesBackDecode := by
  intro bytes i rest h
  obtain ⟨opcode, operands, layout, rfl, hl, hmakes⟩ := decode_eq_ok.mp h
  obtain ⟨hwf, he⟩ := encodes_of_mem_opcodeRows _ (mem_of_findLayout hl) operands i hmakes
  exact ⟨hwf, by rw [he]⟩

/-- Settles O3: each of the thirteen rows is evaluated. -/
theorem wordsOfTheSyntaxTableDecode : Obligations.WordsOfTheSyntaxTableDecode :=
  ⟨rfl, rfl, rfl, rfl, rfl, rfl, rfl, rfl, rfl, rfl, rfl, rfl, rfl⟩

end Sys2Proof
end

section
/-! SUPPORT. The proof of O4 (30_encoding.md R101): an instruction step is refused for its opcode exactly where the
opcode map has no row for it. -/

namespace Sys2Proof.Machine

/-- Fetching an opcode without a meaning from a cell is refused after that one read. -/
theorem fetch_undocumented {s : State} (hcell : holdsCell s.platform s.pc)
    (hu : undocumented (cellAt s.mem s.pc) = true) :
    fetch s = .error (.undocumentedOpcode (cellAt s.mem s.pc) s.pc) := by
  simp only [fetch, memRead_cell hcell, access_ok_bind, (layoutOf_eq_none_iff _).mpr hu]
  rfl

theorem AtPlatform.ne_undocumentedOpcode {s : State} {r : Refusal} (h : AtPlatform s r) (opcode : Byte) (pc0 : Word) :
    r ≠ .undocumentedOpcode opcode pc0 := by
  obtain ⟨addr, rfl, -⟩ := h
  exact nofun

/-- No instruction is refused, once it is fetched, for its opcode. -/
theorem exec_ne_undocumentedOpcode (i : Instr) (s : State) (opcode : Byte) (pc0 : Word) :
    exec i s ≠ .refused (.undocumentedOpcode opcode pc0) := by
  intro h
  rcases exec_refused h with hp | ⟨-, hd⟩
  · exact hp.ne_undocumentedOpcode opcode pc0 rfl
  · exact nomatch hd

/-- An instruction step refused for its opcode has read an undocumented opcode. -/
theorem undocumented_of_stepInstr_refused {s : State} {opcode : Byte} {pc0 : Word}
    (h : stepInstr s = .refused (.undocumentedOpcode opcode pc0)) :
    undocumented opcode = true ∧ ∃ u, memRead s.pc s = .ok (opcode, u) := by
  unfold stepInstr at h
  split at h
  · rename_i r hf
    obtain rfl := Host.Outcome.refused.inj h
    rcases fetch_refused hf with hp | ⟨read, u, hread, hlayout, heq⟩
    · exact absurd rfl (hp.ne_undocumentedOpcode opcode pc0)
    · obtain ⟨rfl, -⟩ := Refusal.undocumentedOpcode.inj heq
      exact ⟨(layoutOf_eq_none_iff opcode).mp hlayout, u, hread⟩
  · rename_i i u hf
    split at h
    · exact nomatch h
    · exact nomatch h
    · rename_i r hr
      obtain rfl := Host.Outcome.refused.inj h
      exact absurd hr (exec_ne_undocumentedOpcode i u opcode pc0)

theorem count_undocumented : ((List.range 256).filter (fun n => undocumented (BitVec.ofNat 8 n))).length = 105 :=
  rfl

/-- Settles O4: the step is an instruction, whose fetch reads the cell at PC, which the overflow pin leaves. -/
theorem undocumentedOpcodesAreRefused : Obligations.UndocumentedOpcodesAreRefused := by
  refine ⟨count_undocumented, fun s hr hl hcell => ?_⟩
  have hpin : holdsCell (overflowPin s).platform (overflowPin s).pc := by simpa using hcell
  rw [step_instr hr hl]
  refine ⟨fun hu => ?_, fun hu opcode pc0 h => ?_⟩
  · have hfetch := fetch_undocumented hpin (by simpa using hu)
    rw [stepInstr, hfetch]
    simp
  · obtain ⟨hopcode, u, hread⟩ := undocumented_of_stepInstr_refused h
    rw [memRead_cell hpin, Except.ok.injEq, Prod.mk.injEq] at hread
    obtain ⟨rfl, -⟩ := hread
    simp [hu] at hopcode

end Sys2Proof.Machine
end

section
/-! SUPPORT. The proof of O12 (30_encoding.md R85 to R92): where every address holds a cell no discarded read refuses
the mode, and its pointer is the word in two cells. -/

namespace Sys2Proof.Machine

theorem kindAt_ne_device_of_holdsCell {p : Platform} {addr : Word} (h : holdsCell p addr) :
    kindAt p addr ≠ .device := by
  rcases h with h | h <;> rw [h] <;> decide

/-- Two reads of cells give the word in them and are recorded, the later one first. -/
theorem readPair_cells {lo hi : Word} {s : State} (hlo : holdsCell s.platform lo) (hhi : holdsCell s.platform hi) :
    readPair lo hi s = .ok (cellPair s.mem lo hi,
      (s.record (.read lo (cellAt s.mem lo))).record (.read hi (cellAt s.mem hi))) :=
  readPair_eq_ok.mpr ⟨_, _, _, memRead_cell hlo, memRead_cell hhi, rfl⟩

/-- Adding an index to a word where the address without the carry holds a cell. -/
theorem indexed_ok {kind : AccessKind} {base : Word} {index : Byte} {s : State}
    (h : holdsCell s.platform (wordOf (hi8 base) (lo8 (base + index.setWidth 16)))) :
    indexed kind base index s =
      .ok ⟨base + index.setWidth 16, pageCrossed base (base + index.setWidth 16), s⟩ :=
  indexed_eq_ok.mpr ⟨fun _ => kindAt_ne_device_of_holdsCell h, rfl⟩

/-- Settles O12, mode by mode; a mode without an index added to a word is its own base, so it crosses no page. -/
theorem effectiveAddresses : Obligations.EffectiveAddresses := by
  intro s kind m hcell
  have hfree : ∀ addr, extraRead addr s = .ok () := fun addr =>
    extraRead_ok (kindAt_ne_device_of_holdsCell (hcell addr))
  cases m with
  | zp b | abs w => simp [effective, formulaAddress, formulaBase, pointerReads, zeroPage]
  | zpx b | zpy b => simp [effective, hfree, formulaAddress, formulaBase, pointerReads, zeroPage]
  | absx w | absy w => exact indexed_ok (hcell _)
  | indx b =>
    have hp : readPointer (b + s.x) s = _ := readPair_cells (hcell _) (hcell _)
    simp [effective, hfree, hp, formulaAddress, formulaBase, pointerReads, zeroPage, State.record]
  | indy b =>
    have hp : readPointer b s = _ := readPair_cells (hcell _) (hcell _)
    simp only [effective, hp, access_ok_bind]
    exact indexed_ok (hcell _)

end Sys2Proof.Machine
end

section
/-! SUPPORT. The proofs of O16 and O17 (40_access.md R120 to R125): the whole next state of an instruction of the read
kind and of one of the write kind, from what its mnemonic means. -/

namespace Sys2Proof.Machine

theorem length_eq_sourceLength {i : Instr} {src : Source} (hi : i.operand = .src src) :
    i.length = sourceLength src := by
  rw [length_eq_operandLength, hi, operandLength_src]

-- The read kind

/-- Reading the operand byte of a memory form changes the bus history and the cycle counter and nothing else. -/
theorem readSource_mem {m : MemMode} {s u : State} {e : Effective} {v : Byte} (he : effective .read m s = .ok e)
    (hv : memRead e.addr e.state = .ok (v, u)) :
    readSource (.mem m) s = .ok (v, (s.withBus u).tick (readCycles e.crossed m)) := by
  have hbus : s.withBus u = u := by
    rw [← (memRead_frame hv).1, ← (effective_frame he).1]
    rfl
  simp only [readSource, he, hv, access_ok_bind, hbus]
  rfl

/-- An instruction of the read kind whose operand byte is read does with it what its mnemonic says, and goes on. -/
theorem exec_of_readSource {i : Instr} {src : Source} {s u : State} {v : Byte} (f : Byte → State → State)
    (hi : i.operand = .src src) (hm : meaningOf i.op (.src src) s = some (withSource src f s))
    (hr : readSource src s = .ok (v, u)) : exec i s = .next (advance i.length (f v u)) := by
  rw [exec_of_meaning (hi ▸ hm), withSource, hr, length_eq_sourceLength hi]
  rfl

section
variable {i : Instr} {src : Source} {s u : State} {v : Byte}

/-- LDA (40_access.md R120), from the state after its operand byte is read. -/
theorem exec_lda (ho : i.op = .lda) (hi : i.operand = .src src) (hr : readSource src s = .ok (v, u)) :
    exec i s = .next { u with
      a := v, flags := flagsOfResult u.flags v, pc := u.pc + BitVec.ofNat 16 i.length } :=
  exec_of_readSource (fun v s => setNZ v (s.setA v)) hi (ho ▸ rfl) hr

/-- LDX (40_access.md R121), from the state after its operand byte is read. -/
theorem exec_ldx (ho : i.op = .ldx) (hi : i.operand = .src src) (hr : readSource src s = .ok (v, u)) :
    exec i s = .next { u with
      x := v, flags := flagsOfResult u.flags v, pc := u.pc + BitVec.ofNat 16 i.length } :=
  exec_of_readSource (fun v s => setNZ v (s.setX v)) hi (ho ▸ rfl) hr

/-- LDY (40_access.md R122), from the state after its operand byte is read. -/
theorem exec_ldy (ho : i.op = .ldy) (hi : i.operand = .src src) (hr : readSource src s = .ok (v, u)) :
    exec i s = .next { u with
      y := v, flags := flagsOfResult u.flags v, pc := u.pc + BitVec.ofNat 16 i.length } :=
  exec_of_readSource (fun v s => setNZ v (s.setY v)) hi (ho ▸ rfl) hr

end

/-- Settles O16: an immediate operand is its own byte, a memory operand the byte at its effective address; what each
mnemonic does with it is `exec_lda`, `exec_ldx` and `exec_ldy`. -/
theorem loadInstructions : Obligations.LoadInstructions := by
  refine ⟨fun b w => rfl, fun b s => ?immediate, fun i m s u e v hi he hv => ?memory⟩
  case immediate =>
    have hr : readSource (.imm b) s = .ok (b, s.tick 2) := rfl
    exact ⟨exec_lda rfl rfl hr, exec_ldx rfl rfl hr, exec_ldy rfl rfl hr⟩
  case memory =>
    have hr := readSource_mem he hv
    exact ⟨fun ho => exec_lda ho hi hr, fun ho => exec_ldx ho hi hr, fun ho => exec_ldy ho hi hr⟩

-- The write kind

/-- STA, STX and STY are the write kind with the byte of their register (40_access.md R123 to R125). -/
theorem meaningOf_store {o : Op} {m : MemMode} {s : State} {v : Byte}
    (h : (o = .sta ∧ v = s.a) ∨ (o = .stx ∧ v = s.x) ∨ (o = .sty ∧ v = s.y)) :
    meaningOf o (.src (.mem m)) s = some (storeByte m v s) := by
  rcases h with ⟨rfl, rfl⟩ | ⟨rfl, rfl⟩ | ⟨rfl, rfl⟩ <;> rfl

/-- An instruction of the write kind at a mapped address stores its byte by the kind of the address. -/
theorem exec_storeByte {i : Instr} {m : MemMode} {s : State} {e : Effective} {v : Byte}
    (hi : i.operand = .src (.mem m)) (hm : meaningOf i.op (.src (.mem m)) s = some (storeByte m v s))
    (he : effective .write m s = .ok e) (hk : kindAt s.platform e.addr ≠ .unmapped) :
    exec i s = .next { s.withBus e.state with
      mem := cellStore s.platform s.mem e.addr v
      trace := .write e.addr v :: e.state.trace
      pc := s.pc + BitVec.ofNat 16 i.length
      cycles := s.cycles + writeCycles m } := by
  rw [exec_of_meaning (hi ▸ hm), storeByte_eq_ok.mpr ⟨e, he, hk, rfl⟩, toOutcome_ok, length_eq_sourceLength hi,
    sourceLength]

/-- Settles O17: the cells after the store are those of `cellStore`, whatever the kind of the address. -/
theorem storeInstructions : Obligations.StoreInstructions := by
  refine ⟨fun b w => rfl, fun i m s e v hi ho hwf he hk => ?_⟩
  exact ⟨cellStore s.platform s.mem e.addr v, exec_storeByte hi (meaningOf_store ho) he hk,
    fun _ hne => cellAt_cellStore_other _ _ v hne, cellAt_cellStore_same v hwf, cellStore_not_ram⟩

end Sys2Proof.Machine
end

section
/-! SUPPORT. The proof of O18: the transfers between registers (41_transfer.md, 48_stack.md R216, R217), as the one-byte
instructions without a data access that they are. -/

namespace Sys2Proof.Machine

/-- A one-byte instruction without a data access does what its mnemonic says and goes on, in two cycles, where the
discarded read of the next byte is no device's (D8). -/
theorem exec_of_implied {i : Instr} {s : State} (f : State → State)
    (hm : meaningOf i.op i.operand s = some (implied f s)) (hk : kindAt s.platform (s.pc + 1) ≠ .device) :
    exec i s = .next (advance 1 ((f s).tick 2)) := by
  rw [exec_of_meaning hm, implied_eq_ok.mpr ⟨hk, rfl⟩, toOutcome_ok]

/-- Settles O18: each transfer is `exec_of_implied` with its own copy; only that of TXS does not set Z and N. -/
theorem transferInstructions : Obligations.TransferInstructions := by
  refine ⟨rfl, fun s hk => ⟨?tax, ?txa, ?tay, ?tya, ?tsx, ?txs⟩⟩
  case tax => exact exec_of_implied (fun s => setNZ s.a (s.setX s.a)) rfl hk
  case txa => exact exec_of_implied (fun s => setNZ s.x (s.setA s.x)) rfl hk
  case tay => exact exec_of_implied (fun s => setNZ s.a (s.setY s.a)) rfl hk
  case tya => exact exec_of_implied (fun s => setNZ s.y (s.setA s.y)) rfl hk
  case tsx => exact exec_of_implied (fun s => setNZ s.sp (s.setX s.sp)) rfl hk
  case txs => exact exec_of_implied (fun s => s.setSp s.x) rfl hk

end Sys2Proof.Machine
end

section
/-! SUPPORT. The arithmetic of the binary ADC and SBC (42_arithmetic.md R140, R141): the nine bits of the sum, the
signed meaning of the overflow formula, and SBC as the addition of the complement. -/

namespace Sys2Proof.Machine

-- The sum and its carry

theorem cast_bitNat (b : Bool) : (bitNat b : Int) = if b then 1 else 0 := by cases b <;> rfl

theorem bitNat_decide (p : Prop) [Decidable p] : bitNat (decide p) = if p then 1 else 0 := by simp [bitNat]

theorem bitNat_le_one (b : Bool) : bitNat b ≤ 1 := by cases b <;> decide

theorem toNat_adcResult (a m : Byte) (c : Bool) : (adcResult a m c).toNat = adcSum a m c % 256 :=
  BitVec.toNat_ofNat _ _

/-- The result byte and the carry out of bit 7 together are the unbounded sum. -/
theorem adcResult_add_carry (a m : Byte) (c : Bool) :
    (adcResult a m c).toNat + 256 * bitNat (decide (adcSum a m c > 0xFF)) = adcSum a m c := by
  have hbound : adcSum a m c < 512 := by
    have := bitNat_le_one c
    unfold adcSum
    omega
  rw [toNat_adcResult, bitNat_decide]
  split <;> omega

-- Signed overflow

/-- Masking with $80 tests the sign bit. -/
theorem and_signMask_ne_zero (v : Byte) : v &&& 0x80 ≠ 0 ↔ v.msb = true := by
  have table : ∀ v : Byte, v &&& 0x80 ≠ 0 ↔ v.msb = true := by decide
  exact table v

/-- The overflow formula of R140 in words: the sign of the result differs from that of both operands. -/
theorem adcOverflow_eq_true_iff (a m r8 : Byte) :
    adcOverflow a m r8 = true ↔ r8.msb ≠ a.msb ∧ r8.msb ≠ m.msb := by
  rw [adcOverflow, decide_eq_true_iff, and_signMask_ne_zero, BitVec.msb_and, BitVec.msb_xor, BitVec.msb_xor,
    Bool.and_eq_true, bne_iff_ne, bne_iff_ne]

/-- V after the binary ADC is signed overflow: the signed sum with the carry does not fit in a byte. -/
theorem adcOverflow_adcResult_iff (a m : Byte) (c : Bool) :
    adcOverflow a m (adcResult a m c) = true ↔
      ¬ (-128 ≤ a.toInt + m.toInt + bitNat c ∧ a.toInt + m.toInt + bitNat c ≤ 127) := by
  have hr := toNat_adcResult a m c
  have hc := bitNat_le_one c
  rw [adcSum] at hr
  rw [adcOverflow_eq_true_iff]
  simp only [BitVec.msb_eq_decide, BitVec.toInt_eq_toNat_cond, ne_eq, decide_eq_decide]
  omega

-- SBC adds the complement

theorem sbcOperand_eq_not (m : Byte) : sbcOperand m = ~~~m := BitVec.xor_allOnes

theorem toNat_sbcOperand (m : Byte) : (sbcOperand m).toNat = 255 - m.toNat := by
  rw [sbcOperand_eq_not, BitVec.toNat_not]

theorem toInt_sbcOperand (m : Byte) : (sbcOperand m).toInt = -m.toInt - 1 := by
  have hm := toNat_sbcOperand m
  simp only [BitVec.toInt_eq_toNat_cond]
  omega

/-- The carry of SBC says that no borrow occurred. -/
theorem adcSum_sbcOperand_gt_iff (a m : Byte) (c : Bool) :
    adcSum a (sbcOperand m) c > 0xFF ↔ m.toNat + (if c then 0 else 1) ≤ a.toNat := by
  rw [adcSum, toNat_sbcOperand, bitNat]
  split <;> omega

/-- The flags after SBC with C as "no borrow", as R141 says it; `adcFlags_sbcOperand` ties them to the flags of the sum
with the complement, which the model computes. -/
def sbcFlags (f : Flags) (a m : Byte) : Flags :=
  let r8 := adcResult a (sbcOperand m) f.c
  { f with
    c := decide (m.toNat + (if f.c then 0 else 1) ≤ a.toNat)
    v := adcOverflow a (sbcOperand m) r8 }.setNZ r8

theorem adcFlags_sbcOperand (f : Flags) (a m : Byte) : adcFlags f a (sbcOperand m) = sbcFlags f a m := by
  simp only [adcFlags, sbcFlags, adcSum_sbcOperand_gt_iff]

end Sys2Proof.Machine
end

section
/-! SUPPORT. The proofs of O19, O20 and O21: ADC and SBC are of the read kind outside decimal mode (42_arithmetic.md
R140, R141), and decimal mode stops them and nothing else (R142). -/

namespace Sys2Proof.Machine

theorem decimalActive_eq_true_iff {s : State} :
    decimalActive s = true ↔ s.platform.bcdEnabled = true ∧ s.flags.d = true := by
  rw [decimalActive, Bool.and_eq_true]

theorem decimalActive_eq_false_iff {s : State} :
    decimalActive s = false ↔ ¬ (s.platform.bcdEnabled = true ∧ s.flags.d = true) := by
  rw [← decimalActive_eq_true_iff, Bool.not_eq_true]

section
variable {i : Instr} {src : Source} {s u : State} {v w : Byte}

/-- Binary ADC adds its operand byte and SBC the complement of it (42_arithmetic.md R140, R141), from the state after
the byte is read. -/
theorem exec_adc_or_sbc (ho : (i.op = .adc ∧ w = v) ∨ (i.op = .sbc ∧ w = sbcOperand v)) (hi : i.operand = .src src)
    (hd : decimalActive s = false) (hr : readSource src s = .ok (v, u)) :
    exec i s = .next { u with
      a := adcResult u.a w u.flags.c
      flags := adcFlags u.flags u.a w
      pc := u.pc + BitVec.ofNat 16 i.length } := by
  rcases ho with ⟨ho, rfl⟩ | ⟨ho, rfl⟩
  · exact exec_of_readSource addToA hi (ho ▸ congrArg some (addCarry_of_decimal_false hd)) hr
  · exact exec_of_readSource (fun m => addToA (sbcOperand m)) hi
      (ho ▸ congrArg some (subtractCarry_of_decimal_false hd)) hr

/-- Binary SBC with C as "no borrow" (42_arithmetic.md R141). -/
theorem exec_sbc (ho : i.op = .sbc) (hi : i.operand = .src src) (hd : decimalActive s = false)
    (hr : readSource src s = .ok (v, u)) :
    exec i s = .next { u with
      a := adcResult u.a (sbcOperand v) u.flags.c
      flags := sbcFlags u.flags u.a v
      pc := u.pc + BitVec.ofNat 16 i.length } := by
  rw [exec_adc_or_sbc (.inr ⟨ho, rfl⟩) hi hd hr, adcFlags_sbcOperand]

end

theorem readSource_imm (b : Byte) (s : State) : readSource (.imm b) s = .ok (b, s.tick 2) := rfl

/-- SBC of an immediate byte is ADC of its complement, in binary and in decimal mode. -/
theorem exec_sbcImm (m : Byte) (s : State) : exec (.sbcImm m) s = exec (.adcImm (sbcOperand m)) s := rfl

/-- Settles O19: an immediate operand is its own byte, a memory operand the byte at its effective address; what ADC
does with it is `exec_adc_or_sbc`. -/
theorem addWithCarry : Obligations.AddWithCarry := by
  refine ⟨fun b w => rfl, fun s m hbinary => ?_⟩
  have hd := decimalActive_eq_false_iff.mpr hbinary
  exact ⟨exec_adc_or_sbc (.inl ⟨rfl, rfl⟩) rfl hd (readSource_imm m s),
    fun i mode e u ho hi he hm => exec_adc_or_sbc (.inl ⟨ho, rfl⟩) hi hd (readSource_mem he hm)⟩

/-- Settles O20: as O19, by `exec_sbc`, whose carry is "no borrow". -/
theorem subtractWithCarry : Obligations.SubtractWithCarry := by
  refine ⟨fun b w => rfl, fun s m hbinary => ?_⟩
  have hd := decimalActive_eq_false_iff.mpr hbinary
  exact ⟨exec_sbc rfl rfl hd (readSource_imm m s),
    fun i mode e u ho hi he hm => exec_sbc ho hi hd (readSource_mem he hm), exec_sbcImm m s⟩

-- Decimal mode

theorem addCarry_of_decimal_true {src : Source} {s : State} (h : decimalActive s = true) :
    addCarry src s = .error (.decimalArithmetic s.pc) := if_pos h

theorem subtractCarry_of_decimal_true {src : Source} {s : State} (h : decimalActive s = true) :
    subtractCarry src s = .error (.decimalArithmetic s.pc) := if_pos h

/-- ADC and SBC in decimal mode are refused, in every form and before any access (R142, D1, entry 23). -/
theorem exec_decimal_refused {i : Instr} {s : State} (hi : i.op = .adc ∨ i.op = .sbc)
    (hd : decimalActive s = true) : exec i s = .refused (.decimalArithmetic s.pc) := by
  obtain ⟨x, hm, hx⟩ := meaningOf_eq_some i s
  rw [hx, toOutcome_eq_refused]
  rcases hi with ho | ho <;> rw [ho] at hm <;> obtain ⟨src, -, rfl⟩ := onSource_eq_some.mp hm
  · exact addCarry_of_decimal_true hd
  · exact subtractCarry_of_decimal_true hd

/-- A mnemonic other than ADC and SBC is refused for one of its accesses only; by the family of the mnemonic. -/
theorem AtPlatform.of_meaningOf {o : Op} {a : Operand} {s : State} {r : Refusal}
    (hm : meaningOf o a s = some (.error r)) (ho : ¬ (o = .adc ∨ o = .sbc)) : AtPlatform s r := by
  cases o with
  | adc | sbc => exact absurd (by decide) ho
  | lda | ldx | ldy | and | ora | eor | cmp | cpx | cpy =>
    obtain ⟨src, -, h⟩ := onSource_eq_some.mp hm
    exact .withSource h
  | bit =>
    obtain ⟨m, -, h⟩ := onMem_eq_some.mp hm
    exact .withSource h
  | sta | stx | sty =>
    obtain ⟨m, -, h⟩ := onMem_eq_some.mp hm
    exact .storeByte h
  | inc | dec =>
    obtain ⟨m, -, h⟩ := onMem_eq_some.mp hm
    exact .modifyMem h
  | asl | lsr | rol | ror =>
    rcases onAccOrMem_eq_some.mp hm with ⟨-, h⟩ | ⟨m, -, h⟩
    · exact .implied h
    · exact .modifyMem h
  | tax | txa | tay | tya | inx | dex | iny | dey | txs | tsx | clc | sec | cli | sei | cld | sed | clv | nop =>
    obtain ⟨-, h⟩ := onImplied_eq_some.mp hm
    exact .implied h
  | bcc | bcs | beq | bne | bpl | bmi | bvc | bvs =>
    obtain ⟨offset, -, h⟩ := onRel_eq_some.mp hm
    exact .branch h
  | jmp =>
    rcases onTarget_eq_some.mp hm with ⟨w, -, h⟩ | ⟨p, -, h⟩
    · exact nomatch h
    · exact .jumpIndirect (Option.some.inj h)
  | jsr =>
    rcases onTarget_eq_some.mp hm with ⟨w, -, h⟩ | ⟨p, -, h⟩
    · exact .jumpSubroutine h
    · exact nomatch h
  | rts =>
    obtain ⟨-, h⟩ := onImplied_eq_some.mp hm
    exact .returnSubroutine h
  | brk =>
    obtain ⟨-, h⟩ := onImplied_eq_some.mp hm
    exact .breakInterrupt h
  | rti =>
    obtain ⟨-, h⟩ := onImplied_eq_some.mp hm
    exact .returnInterrupt h
  | pha | php =>
    obtain ⟨-, h⟩ := onImplied_eq_some.mp hm
    exact .pushRegister h
  | pla | plp =>
    obtain ⟨-, h⟩ := onImplied_eq_some.mp hm
    exact .pullRegister h

/-- Only ADC and SBC are refused as decimal arithmetic. -/
theorem op_of_exec_decimal_refused {i : Instr} {s : State} {pc0 : Word}
    (h : exec i s = .refused (.decimalArithmetic pc0)) : i.op = .adc ∨ i.op = .sbc := by
  by_contra ho
  obtain ⟨x, hm, hx⟩ := meaningOf_eq_some i s
  rw [hx, toOutcome_eq_refused] at h
  subst h
  obtain ⟨addr, heq, -⟩ := AtPlatform.of_meaningOf hm ho
  exact nomatch heq

/-- Settles O21: the first clause is `exec_decimal_refused`; in the second `exec_refused` gives the configuration and
the PC, and `op_of_exec_decimal_refused` the mnemonic. -/
theorem decimalArithmeticIsRefused : Obligations.DecimalArithmeticIsRefused := by
  refine ⟨fun i s hi hb hd => exec_decimal_refused hi (decimalActive_eq_true_iff.mpr ⟨hb, hd⟩), fun i s pc0 h => ?_⟩
  rcases exec_refused h with ⟨addr, heq, -⟩ | ⟨hactive, heq⟩
  · exact nomatch heq
  · obtain ⟨hb, hd⟩ := decimalActive_eq_true_iff.mp hactive
    exact ⟨op_of_exec_decimal_refused h, hb, hd, Refusal.decimalArithmetic.inj heq⟩

end Sys2Proof.Machine
end

section
/-! SUPPORT. The proofs of O22 and O23: the read-modify-write kind on memory as a whole next state (43_shift.md R155),
and the steps of the index registers. -/

namespace Sys2Proof.Machine

-- The two writes at one address

/-- A read-modify-write leaves the cell of every other address. -/
theorem cellAt_cellStore_twice_other (p : Platform) (m : Memory) {addr other : Word} (v w : Byte)
    (h : other ≠ addr) : cellAt (cellStore p (cellStore p m addr v) addr w) other = cellAt m other := by
  rw [cellAt_cellStore_other _ _ _ h, cellAt_cellStore_other _ _ _ h]

/-- A read-modify-write leaves its second byte in the cell. -/
theorem cellAt_cellStore_twice_same {p : Platform} {m : Memory} {addr : Word} (v w : Byte) (hm : m.wf = true)
    (h : kindAt p addr = .ram) : cellAt (cellStore p (cellStore p m addr v) addr w) addr = w :=
  cellAt_cellStore_same w (wf_cellStore hm) h

/-- An instruction of the read-modify-write kind whose byte is read writes it back, then writes what its byte operation
makes of it. -/
theorem exec_of_modifyMem {i : Instr} {m : MemMode} {s u : State} {e : Effective} {v r8 : Byte} {g : Flags}
    (f : ByteOp) (hi : i.operand = .src (.mem m)) (hm : meaningOf i.op (.src (.mem m)) s = some (modifyMem m f s))
    (he : effective .rmw m s = .ok e) (hv : memRead e.addr e.state = .ok (v, u)) (hf : f v s.flags = (r8, g)) :
    exec i s = .next { s.withBus u with
      mem := cellStore s.platform (cellStore s.platform s.mem e.addr v) e.addr r8
      trace := .write e.addr r8 :: .write e.addr v :: u.trace
      flags := g
      pc := s.pc + BitVec.ofNat 16 i.length
      cycles := s.cycles + rmwCycles m } := by
  rw [exec_of_meaning (hi ▸ hm), modifyMem_eq_ok.mpr ⟨e, v, u, he, hv, rfl⟩, toOutcome_ok, hf,
    length_eq_sourceLength hi, sourceLength]

/-- INC and DEC are the read-modify-write kind with a byte operation that sets Z and N only (R143, R144). -/
theorem exists_byteOp_of_inc_or_dec {o : Op} {v r8 : Byte} (h : (o = .inc ∧ r8 = v + 1) ∨ (o = .dec ∧ r8 = v - 1)) :
    ∃ f : ByteOp, (∀ m s, meaningOf o (.src (.mem m)) s = some (modifyMem m f s)) ∧
      ∀ g, f v g = (r8, flagsOfResult g r8) := by
  rcases h with ⟨rfl, rfl⟩ | ⟨rfl, rfl⟩
  · exact ⟨incByte, fun _ _ => rfl, fun _ => rfl⟩
  · exact ⟨decByte, fun _ _ => rfl, fun _ => rfl⟩

/-- Settles O22: the whole next state is `exec_of_modifyMem`, and its cells are those of two writes at one address. -/
theorem incrementDecrementMemory : Obligations.IncrementDecrementMemory := by
  refine ⟨fun b w => rfl, fun i m s u e v r8 hi ho hwf he hv => ?_⟩
  obtain ⟨f, hmeaning, hf⟩ := exists_byteOp_of_inc_or_dec ho
  exact ⟨exec_of_modifyMem f hi (hmeaning m s) he hv (hf s.flags),
    fun addr hne => cellAt_cellStore_twice_other _ _ v r8 hne, cellAt_cellStore_twice_same v r8 hwf⟩

/-- Settles O23: each is `exec_of_implied` with its own byte operation on its own register. -/
theorem incrementDecrementIndex : Obligations.IncrementDecrementIndex := by
  refine ⟨rfl, fun s hk => ⟨?inx, ?dex, ?iny, ?dey⟩⟩
  case inx => exact exec_of_implied (stepX incByte) rfl hk
  case dex => exact exec_of_implied (stepX decByte) rfl hk
  case iny => exact exec_of_implied (stepY incByte) rfl hk
  case dey => exact exec_of_implied (stepY decByte) rfl hk

end Sys2Proof.Machine
end

section
/-! SUPPORT. The proof of O49: an ADC or SBC that completes is the binary one, so its V and its C with A are those of
the unbounded sum. -/

namespace Sys2Proof.Machine

/-- The operand byte of an instruction is what its read gives, and that read leaves the registers and flags. -/
theorem readSource_of_operandByte {i : Instr} {s : State} {m : Byte} (h : operandByte i s m) :
    ∃ src u n, i.operand = .src src ∧ readSource src s = .ok (m, (s.withBus u).tick n) := by
  rcases h with hi | ⟨mode, e, u, hi, he, hm⟩
  · exact ⟨.imm m, s, 2, hi, readSource_imm m s⟩
  · exact ⟨.mem mode, u, readCycles e.crossed mode, hi, readSource_mem he hm⟩

/-- ADC or SBC that completes was not in decimal mode. -/
theorem decimalActive_false_of_exec {i : Instr} {s t : State} (hi : i.op = .adc ∨ i.op = .sbc)
    (h : exec i s = .next t) : decimalActive s = false := by
  by_contra hd
  rw [exec_decimal_refused hi (Bool.not_eq_false _ ▸ hd)] at h
  exact nomatch h

/-- A and the flags after an ADC or SBC that completes are those of the binary sum with what it adds. -/
theorem a_flags_of_exec {i : Instr} {s t : State} {m w : Byte}
    (ho : (i.op = .adc ∧ w = m) ∨ (i.op = .sbc ∧ w = sbcOperand m)) (hm : operandByte i s m)
    (h : exec i s = .next t) : t.a = adcResult s.a w s.flags.c ∧ t.flags = adcFlags s.flags s.a w := by
  obtain ⟨src, u, n, hi, hr⟩ := readSource_of_operandByte hm
  have hd := decimalActive_false_of_exec (ho.imp And.left And.left) h
  rw [exec_adc_or_sbc ho hi hd hr] at h
  obtain rfl := Host.Outcome.next.inj h
  exact ⟨rfl, rfl⟩

/-- V of the binary sum of `a`, `m` and the old C says that the signed sum does not fit in a byte. -/
theorem adcFlags_v_iff (f : Flags) (a m : Byte) :
    (adcFlags f a m).v = true ↔
      ¬ (-128 ≤ a.toInt + m.toInt + bitNat f.c ∧ a.toInt + m.toInt + bitNat f.c ≤ 127) :=
  adcOverflow_adcResult_iff a m f.c

/-- The result byte and C of the binary sum hold the exact unsigned sum. -/
theorem adcResult_add_adcFlags_c (f : Flags) (a m : Byte) :
    (adcResult a m f.c).toNat + 256 * bitNat (adcFlags f a m).c = a.toNat + m.toNat + bitNat f.c :=
  adcResult_add_carry a m f.c

/-- Settles O49, by the meaning of V and of C with A for a sum; a difference is the sum with the complement, whose
signed value is −m − 1 and whose unsigned value is 255 − m. -/
theorem signedOverflowMeaning : Obligations.SignedOverflowMeaning := by
  intro i s t m hm h
  simp only [← cast_bitNat]
  refine ⟨fun ho => ?adc, fun ho => ?sbc⟩
  case adc =>
    obtain ⟨ha, hflags⟩ := a_flags_of_exec (.inl ⟨ho, rfl⟩) hm h
    have hsum := adcResult_add_adcFlags_c s.flags s.a m
    rw [ha, hflags]
    exact ⟨adcFlags_v_iff s.flags s.a m, by omega⟩
  case sbc =>
    obtain ⟨ha, hflags⟩ := a_flags_of_exec (.inr ⟨ho, rfl⟩) hm h
    have hsum := adcResult_add_adcFlags_c s.flags s.a (sbcOperand m)
    rw [toNat_sbcOperand] at hsum
    rw [ha, hflags, adcFlags_v_iff, toInt_sbcOperand]
    exact ⟨by omega, by omega⟩

end Sys2Proof.Machine
end

section
/-! SUPPORT. The proof of O24: the shifts as the two shared shapes, on A and on memory, of one byte operation each
(43_shift.md R155 to R159). -/

namespace Sys2Proof.Machine

/-- The result byte and the new C of each shift, from the operand byte and the old C, as R156 to R159 write them;
`exists_byteOp_of_shift` ties them to the byte operations of the model. -/
def ShiftGives (o : Op) (v : Byte) (carry : Bool) (r8 : Byte) (c : Bool) : Prop :=
  (o = .asl ∧ r8 = v <<< 1 ∧ c = v.getLsbD 7) ∨
  (o = .lsr ∧ r8 = v >>> 1 ∧ c = v.getLsbD 0) ∨
  (o = .rol ∧ r8 = (v <<< 1 ||| (if carry then 0x01 else 0x00)) ∧ c = v.getLsbD 7) ∨
  (o = .ror ∧ r8 = (v >>> 1 ||| (if carry then 0x80 else 0x00)) ∧ c = v.getLsbD 0)

/-- The old C as bit 0, as ROL takes it in. -/
theorem ofNat_bitNat (c : Bool) : BitVec.ofNat 8 (bitNat c) = if c then 0x01 else 0x00 := by cases c <;> rfl

/-- The old C as bit 7, as ROR takes it in. -/
theorem ofNat_bitNat_shiftLeft_seven (c : Bool) : BitVec.ofNat 8 (bitNat c) <<< 7 = if c then 0x80 else 0x00 := by
  cases c <;> rfl

theorem rolByte_eq (v : Byte) (g : Flags) : rolByte v g =
    (v <<< 1 ||| (if g.c then 0x01 else 0x00),
      flagsOfResult { g with c := v.getLsbD 7 } (v <<< 1 ||| (if g.c then 0x01 else 0x00))) := by
  rw [← ofNat_bitNat]
  rfl

theorem rorByte_eq (v : Byte) (g : Flags) : rorByte v g =
    (v >>> 1 ||| (if g.c then 0x80 else 0x00),
      flagsOfResult { g with c := v.getLsbD 0 } (v >>> 1 ||| (if g.c then 0x80 else 0x00))) := by
  rw [← ofNat_bitNat_shiftLeft_seven]
  rfl

/-- A shift does one byte operation, on A or on memory, and that gives the byte and the C of its rule, with Z and N of
the byte. -/
theorem exists_byteOp_of_shift {o : Op} {v r8 : Byte} {g : Flags} {c : Bool} (h : ShiftGives o v g.c r8 c) :
    ∃ f : ByteOp, (∀ a s, meaningOf o a s = onAccOrMem a f s) ∧
      f v g = (r8, flagsOfResult { g with c := c } r8) := by
  rcases h with ⟨rfl, rfl, rfl⟩ | ⟨rfl, rfl, rfl⟩ | ⟨rfl, rfl, rfl⟩ | ⟨rfl, rfl, rfl⟩
  · exact ⟨aslByte, fun _ _ => rfl, rfl⟩
  · exact ⟨lsrByte, fun _ _ => rfl, rfl⟩
  · exact ⟨rolByte, fun _ _ => rfl, rolByte_eq v g⟩
  · exact ⟨rorByte, fun _ _ => rfl, rorByte_eq v g⟩

/-- A right shift moves a zero into bit 7. -/
theorem getLsbD_seven_ushiftRight_one (v : Byte) : (v >>> 1).getLsbD 7 = false := by
  rw [BitVec.getLsbD_ushiftRight, BitVec.getLsbD_of_ge v (1 + 7) (by decide)]

/-- Bit 7 of the result of LSR is 0 (R157). -/
theorem ShiftGives.bit_seven_of_lsr {o : Op} {v r8 : Byte} {carry c : Bool} (h : ShiftGives o v carry r8 c)
    (ho : o = .lsr) : r8.getLsbD 7 = false := by
  subst ho
  simp only [ShiftGives, reduceCtorEq, false_and, false_or, or_false, true_and] at h
  obtain ⟨rfl, -⟩ := h
  exact getLsbD_seven_ushiftRight_one v

/-- Bit 7 of the result of ROR is the old C (R159). -/
theorem ShiftGives.bit_seven_of_ror {o : Op} {v r8 : Byte} {carry c : Bool} (h : ShiftGives o v carry r8 c)
    (ho : o = .ror) : r8.getLsbD 7 = carry := by
  subst ho
  simp only [ShiftGives, reduceCtorEq, false_and, false_or, true_and] at h
  obtain ⟨rfl, -⟩ := h
  rw [BitVec.getLsbD_or, getLsbD_seven_ushiftRight_one]
  cases carry <;> rfl

/-- A byte operation in Accumulator mode takes A and puts its result there, in two cycles, where the discarded read of
the next byte is no device's (D8). -/
theorem exec_of_modifyA {i : Instr} {s : State} {r8 : Byte} {g : Flags} (f : ByteOp)
    (hm : meaningOf i.op i.operand s = some (modifyA f s)) (hf : f s.a s.flags = (r8, g))
    (hk : kindAt s.platform (s.pc + 1) ≠ .device) :
    exec i s = .next { s with a := r8, flags := g, pc := s.pc + 1, cycles := s.cycles + 2 } := by
  rw [exec_of_meaning hm, modifyA_eq_ok.mpr ⟨hk, rfl⟩, toOutcome_ok, hf]

/-- Settles O24: N is bit 7 of the result byte; the next state is `exec_of_modifyA` on A and `exec_of_modifyMem` on
memory, where the cells are those of two writes at one address. -/
theorem shiftInstructions : Obligations.ShiftInstructions := by
  refine ⟨fun b w => rfl, fun i s v r8 c h => ?_⟩
  have hgives : ShiftGives i.op v s.flags.c r8 c := h
  obtain ⟨f, hmeaning, hf⟩ := exists_byteOp_of_shift hgives
  refine ⟨hgives.bit_seven_of_lsr, hgives.bit_seven_of_ror, ?acc, ?mem⟩
  case acc =>
    rintro hi rfl hk
    exact exec_of_modifyA f (by rw [hmeaning, hi, onAccOrMem]) hf hk
  case mem =>
    intro m e u hi hwf he hv
    exact ⟨exec_of_modifyMem f hi (hmeaning _ s) he hv hf,
      fun addr hne => cellAt_cellStore_twice_other _ _ v r8 hne, cellAt_cellStore_twice_same v r8 hwf⟩

end Sys2Proof.Machine
end

section
/-! SUPPORT. The proof of O51: C and A as one word of nine bits, which ROL A and ROR A rotate (43_shift.md R158,
R159). -/

namespace Sys2Proof.Machine

/-- C above A. -/
def State.carryA (s : State) : BitVec 9 := BitVec.cons s.flags.c s.a

theorem State.carryA_eq_iff {s t : State} : t.carryA = s.carryA ↔ t.a = s.a ∧ t.flags.c = s.flags.c := by
  constructor
  · intro h
    exact ⟨by simpa [State.carryA] using congrArg (BitVec.setWidth 8) h,
      by simpa [State.carryA] using congrArg BitVec.msb h⟩
  · rintro ⟨ha, hc⟩
    rw [State.carryA, State.carryA, ha, hc]

-- Rotations of nine bits

/-- Rotating left and then right by one bit gives back the word. -/
theorem rotateRight_one_rotateLeft_one (w : BitVec 9) : (w.rotateLeft 1).rotateRight 1 = w := by
  ext k hk
  simp only [BitVec.getElem_rotateRight, BitVec.getElem_rotateLeft]
  split_ifs <;> congr 1 <;> omega

theorem rotateLeft_rotateLeft_one (w : BitVec 9) (n : Nat) :
    (w.rotateLeft n).rotateLeft 1 = w.rotateLeft (n + 1) := by
  ext k hk
  simp only [BitVec.getElem_rotateLeft]
  split_ifs <;> congr 1 <;> omega

theorem rotateLeft_zero (w : BitVec 9) : w.rotateLeft 0 = w := by
  ext k hk
  simp [BitVec.getElem_rotateLeft]

theorem iterate_rotateLeft_one (w : BitVec 9) (n : Nat) : (BitVec.rotateLeft · 1)^[n] w = w.rotateLeft n := by
  induction n with
  | zero => exact (rotateLeft_zero w).symm
  | succ n ih => rw [Function.iterate_succ_apply', ih, rotateLeft_rotateLeft_one]

/-- Nine rotations to the left go once round the word. -/
theorem iterate_nine_rotateLeft_one (w : BitVec 9) : (BitVec.rotateLeft · 1)^[9] w = w := by
  rw [iterate_rotateLeft_one, ← BitVec.rotateLeft_mod_eq_rotateLeft, Nat.mod_self, rotateLeft_zero]

/-- Nine rotations to the right undo nine to the left, which change nothing. -/
theorem iterate_nine_rotateRight_one (w : BitVec 9) : (BitVec.rotateRight · 1)^[9] w = w := by
  have hundo : Function.LeftInverse (BitVec.rotateRight · 1) (BitVec.rotateLeft (w := 9) · 1) :=
    rotateRight_one_rotateLeft_one
  calc (BitVec.rotateRight · 1)^[9] w
      = (BitVec.rotateRight · 1)^[9] ((BitVec.rotateLeft · 1)^[9] w) := by rw [iterate_nine_rotateLeft_one]
    _ = w := hundo.iterate 9 w

-- ROL A and ROR A on the nine bits

/-- The C and the byte of ROL above each other are the nine bits rotated left. -/
theorem cons_rol (c : Bool) (v : Byte) :
    BitVec.cons (v.getLsbD 7) (v <<< 1 ||| (if c then 0x01 else 0x00)) = (BitVec.cons c v).rotateLeft 1 := by
  ext k hk
  simp only [BitVec.getElem_rotateLeft, BitVec.getElem_cons]
  interval_cases k <;> cases c <;> simp

/-- The C and the byte of ROR above each other are the nine bits rotated right. -/
theorem cons_ror (c : Bool) (v : Byte) :
    BitVec.cons (v.getLsbD 0) (v >>> 1 ||| (if c then 0x80 else 0x00)) = (BitVec.cons c v).rotateRight 1 := by
  ext k hk
  simp only [BitVec.getElem_rotateRight, BitVec.getElem_cons]
  interval_cases k <;> cases c <;> simp

/-- On `ram` one instruction (`exec`) or several (`execAll`) complete and do `g` to C and A. -/
def ActsOnCarryA (run : State → StepResult) (g : BitVec 9 → BitVec 9) : Prop :=
  ∀ s : State, AllRam s.platform → ∃ t, run s = .next t ∧ t.carryA = g s.carryA

theorem actsOnCarryA_rolAcc : ActsOnCarryA (exec .rolAcc) (BitVec.rotateLeft · 1) := fun s hs =>
  ⟨_, exec_of_modifyA rolByte rfl (rolByte_eq s.a s.flags) (by simp [hs.kindAt]), cons_rol s.flags.c s.a⟩

theorem actsOnCarryA_rorAcc : ActsOnCarryA (exec .rorAcc) (BitVec.rotateRight · 1) := fun s hs =>
  ⟨_, exec_of_modifyA rorByte rfl (rorByte_eq s.a s.flags) (by simp [hs.kindAt]), cons_ror s.flags.c s.a⟩

-- Several instructions in a row

theorem execAll_cons {i : Instr} {rest : List Instr} {s t : State} (h : exec i s = .next t) :
    execAll (i :: rest) s = execAll rest t := by
  simp only [execAll, h]

/-- An instruction put first acts on C and A before those that follow do. -/
theorem ActsOnCarryA.cons {i : Instr} {rest : List Instr} {g g' : BitVec 9 → BitVec 9}
    (hi : ActsOnCarryA (exec i) g) (hrest : ActsOnCarryA (execAll rest) g') :
    ActsOnCarryA (execAll (i :: rest)) (g' ∘ g) := by
  intro s hs
  obtain ⟨u, hu, hug⟩ := hi s hs
  obtain ⟨t, ht, htg⟩ := hrest u (by rwa [(Keeps.exec hu).platform])
  exact ⟨t, (execAll_cons hu).trans ht, by rw [htg, hug, Function.comp_apply]⟩

/-- An instruction so many times in a row acts on C and A so many times. -/
theorem ActsOnCarryA.replicate {i : Instr} {g : BitVec 9 → BitVec 9} (hi : ActsOnCarryA (exec i) g) (n : Nat) :
    ActsOnCarryA (execAll (List.replicate n i)) g^[n] := by
  induction n with
  | zero => exact fun s _ => ⟨s, rfl, rfl⟩
  | succ n ih => exact hi.cons ih

/-- What leaves the nine bits as they are returns A and C. -/
theorem ActsOnCarryA.returns {run : State → StepResult} {g : BitVec 9 → BitVec 9} {s : State}
    (hrun : ActsOnCarryA run g) (hg : ∀ w, g w = w) (hs : AllRam s.platform) :
    ∃ t, run s = .next t ∧ t.a = s.a ∧ t.flags.c = s.flags.c := by
  obtain ⟨t, ht, htg⟩ := hrun s hs
  exact ⟨t, ht, State.carryA_eq_iff.mp (htg.trans (hg s.carryA))⟩

/-- Settles O51: on C and A as nine bits, ROL A and ROR A are the rotations by one, of which nine go once round and one
undoes the other. -/
theorem nineRotationsReturn : Obligations.NineRotationsReturn := by
  refine fun s hs => ⟨?rol, ?ror, ?both⟩
  case rol => exact (actsOnCarryA_rolAcc.replicate 9).returns iterate_nine_rotateLeft_one hs
  case ror => exact (actsOnCarryA_rorAcc.replicate 9).returns iterate_nine_rotateRight_one hs
  case both =>
    have hboth := actsOnCarryA_rolAcc.cons (actsOnCarryA_rorAcc.replicate 1)
    exact hboth.returns rotateRight_one_rotateLeft_one hs

end Sys2Proof.Machine
end

section
/-! SUPPORT. The proofs of O25 and O26: AND, ORA, EOR and BIT are of the read kind, and differ in what they do with
the operand byte (44_bitwise.md R165 to R168). -/

namespace Sys2Proof.Machine

section
variable {i : Instr} {src : Source} {s u : State} {v r8 : Byte}

/-- AND, ORA and EOR (44_bitwise.md R165 to R167), from the state after the operand byte is read. -/
theorem exec_bitwise (hi : i.operand = .src src) (hr : readSource src s = .ok (v, u))
    (ho : (i.op = .and ∧ r8 = u.a &&& v) ∨ (i.op = .ora ∧ r8 = u.a ||| v) ∨ (i.op = .eor ∧ r8 = u.a ^^^ v)) :
    exec i s = .next { u with
      a := r8, flags := flagsOfResult u.flags r8, pc := u.pc + BitVec.ofNat 16 i.length } := by
  rcases ho with ⟨ho, rfl⟩ | ⟨ho, rfl⟩ | ⟨ho, rfl⟩
  · exact exec_of_readSource (fun m s => setNZ (s.a &&& m) (s.setA (s.a &&& m))) hi (ho ▸ rfl) hr
  · exact exec_of_readSource (fun m s => setNZ (s.a ||| m) (s.setA (s.a ||| m))) hi (ho ▸ rfl) hr
  · exact exec_of_readSource (fun m s => setNZ (s.a ^^^ m) (s.setA (s.a ^^^ m))) hi (ho ▸ rfl) hr

/-- BIT (44_bitwise.md R168), from the state after the operand byte is read. -/
theorem exec_bit {m : MemMode} (ho : i.op = .bit) (hi : i.operand = .src (.mem m))
    (hr : readSource (.mem m) s = .ok (v, u)) :
    exec i s = .next { u with
      flags := bitTestFlags u.flags u.a v, pc := u.pc + BitVec.ofNat 16 i.length } :=
  exec_of_readSource (fun m s => s.setFlags (bitTestFlags s.flags s.a m)) hi (ho ▸ rfl) hr

end

/-- Settles O25: an immediate operand is its own byte, a memory operand the byte at its effective address; what the
mnemonic does with it is `exec_bitwise`. -/
theorem bitwiseInstructions : Obligations.BitwiseInstructions := by
  refine ⟨fun b w => rfl, fun i s m r8 ho => ⟨fun hi => ?immediate, fun mode e u hi he hm => ?memory⟩,
    fun a m k _ => ⟨BitVec.getLsbD_and, BitVec.getLsbD_or, BitVec.getLsbD_xor⟩⟩
  case immediate =>
    have hexec := exec_bitwise hi (readSource_imm m s) ho
    rwa [length_eq_sourceLength hi] at hexec
  case memory => exact exec_bitwise hi (readSource_mem he hm) ho

end Sys2Proof.Machine

namespace Sys2Proof

open Machine in
/-- Settles O26: the operand byte is the byte at the effective address; what BIT does with it is `exec_bit`. The theorem
stands outside `Machine`, where the model's own `bitTest` has the name. -/
theorem bitTest : Obligations.BitTest := by
  refine ⟨fun b w => rfl, fun i m s u e v ho hi he hv => ?_⟩
  exact exec_bit ho hi (readSource_mem he hv)

end Sys2Proof
end

section
/-! SUPPORT. The proofs of O27 and O50: CMP, CPX and CPY are one instruction of the read kind with three registers
(45_compare.md R175 to R177), and its flags are those of the subtraction with C = 1 (42_arithmetic.md R141). -/

namespace Sys2Proof.Machine

-- The whole next state

/-- CMP, CPX and CPY with their register `r` (45_compare.md R175 to R177), from the state after the operand byte is
read. -/
theorem exec_compare {i : Instr} {src : Source} {s u : State} {r m : Byte} (hi : i.operand = .src src)
    (hr : readSource src s = .ok (m, u))
    (ho : (i.op = .cmp ∧ r = u.a) ∨ (i.op = .cpx ∧ r = u.x) ∨ (i.op = .cpy ∧ r = u.y)) :
    exec i s = .next { u with
      flags := compareFlags u.flags r m, pc := u.pc + BitVec.ofNat 16 i.length } := by
  rcases ho with ⟨ho, rfl⟩ | ⟨ho, rfl⟩ | ⟨ho, rfl⟩
  · exact exec_of_readSource (fun m s => s.setFlags (compareFlags s.flags s.a m)) hi (ho ▸ rfl) hr
  · exact exec_of_readSource (fun m s => s.setFlags (compareFlags s.flags s.x m)) hi (ho ▸ rfl) hr
  · exact exec_of_readSource (fun m s => s.setFlags (compareFlags s.flags s.y m)) hi (ho ▸ rfl) hr

/-- Settles O27: an immediate operand is its own byte, a memory operand the byte at its effective address; what the
mnemonic does with it is `exec_compare`. -/
theorem compareInstructions : Obligations.CompareInstructions := by
  refine ⟨fun b w => rfl, fun i s r m ho => ⟨fun hi => ?immediate, fun mode e u hi he hm => ?memory⟩⟩
  case immediate =>
    have hexec := exec_compare hi (readSource_imm m s) ho
    rwa [length_eq_sourceLength hi] at hexec
  case memory => exact exec_compare hi (readSource_mem he hm) ho

-- The flags as those of a subtraction

/-- SBC with C = 1 takes nothing but its operand away. -/
theorem adcResult_sbcOperand_true (a m : Byte) : adcResult a (sbcOperand m) true = a - m := by
  apply BitVec.eq_of_toNat_eq
  rw [toNat_adcResult, adcSum, toNat_sbcOperand, BitVec.toNat_sub, bitNat, if_pos rfl]
  omega

/-- The flags of SBC with C = 1 are those of a compare but for V, which a compare leaves alone. -/
theorem sbcFlags_carry_true (f : Flags) (r m : Byte) :
    sbcFlags { f with c := true } r m =
      { compareFlags f r m with v := adcOverflow r (sbcOperand m) (r - m) } := by
  have hz : r - m = 0 ↔ r = m := sub_eq_zero
  simp only [sbcFlags, compareFlags, Flags.setNZ, adcResult_sbcOperand_true, hz, if_true, Nat.add_zero]

/-- A compare that completes has written flags and no register: A, X, Y and SP are as before. -/
theorem registers_of_compare {i : Instr} {s t : State} {r m : Byte}
    (ho : (i.op = .cmp ∧ r = s.a) ∨ (i.op = .cpx ∧ r = s.x) ∨ (i.op = .cpy ∧ r = s.y))
    (hm : operandByte i s m) (h : exec i s = .next t) :
    t.registers = { s.registers with flags := compareFlags s.flags r m } := by
  obtain ⟨src, u, n, hi, hr⟩ := readSource_of_operandByte hm
  rw [exec_compare hi hr ho] at h
  obtain rfl := Host.Outcome.next.inj h
  rfl

/-- Settles O50: the registers after the compare are `registers_of_compare`, the flags after the SBC those of the same
compare by `sbcFlags_carry_true`. -/
theorem compareIsSubtractWithCarrySet : Obligations.CompareIsSubtractWithCarrySet := by
  intro i j s t u r m ho hj s' hm hm' hi hsbc
  obtain ⟨ha, hx, hy, -, hcompare⟩ := Registers.mk.inj (registers_of_compare ho hm hi)
  have hsubtract : u.flags = { compareFlags s.flags r m with v := adcOverflow r (sbcOperand m) (r - m) } := by
    rw [(a_flags_of_exec (.inr ⟨hj, rfl⟩) hm' hsbc).2, adcFlags_sbcOperand, sbcFlags_carry_true]
  rw [hcompare, hsubtract]
  exact ⟨rfl, rfl, rfl, ha, hx, hy, rfl⟩

end Sys2Proof.Machine
end

section
/-! SUPPORT. The proof of O28 (46_branch.md R180 to R189): the eight branches are one operation with eight conditions,
and what it does depends on the condition and on the page of its target. -/

namespace Sys2Proof.Machine

/-- The instructions with a branch offset are the eight branches of R189. -/
theorem exists_branchCondition {i : Instr} {offset : Int} (hi : i.operand = .rel offset) (f : Flags) :
    ∃ cond, branchCondition i.op f = some cond := by
  cases i with
  | bcc | bcs | beq | bne | bpl | bmi | bvc | bvs => exact ⟨_, rfl⟩
  | _ => exact nomatch hi

/-- A branch not taken makes no discarded read, so it completes in every state. -/
theorem branch_not_taken (offset : Int) (s : State) :
    branch false offset s = .ok ((s.setPc (s.pc + 2)).tick 2) := rfl

/-- A branch taken within the page of the next instruction has the one discarded read there. -/
theorem branch_taken_same_page {offset : Int} {s : State} (hk : kindAt s.platform (s.pc + 2) ≠ .device)
    (hpage : hi8 (s.pc + 2) = hi8 (branchTarget s.pc offset)) :
    branch true offset s = .ok ((s.setPc (branchTarget s.pc offset)).tick 3) := by
  have hcrossed : pageCrossed (s.pc + 2) (branchTarget s.pc offset) = false :=
    decide_eq_false (not_not_intro hpage.symm)
  simp only [branch, if_true, hcrossed]
  exact extraRead_bind_not_device hk _

/-- A branch taken out of the page of the next instruction also has the one at the target without the carry. -/
theorem branch_taken_other_page {offset : Int} {s : State} (hk : kindAt s.platform (s.pc + 2) ≠ .device)
    (hpage : hi8 (s.pc + 2) ≠ hi8 (branchTarget s.pc offset))
    (hu : kindAt s.platform (wordOf (hi8 (s.pc + 2)) (lo8 (branchTarget s.pc offset))) ≠ .device) :
    branch true offset s = .ok ((s.setPc (branchTarget s.pc offset)).tick 4) := by
  have hcrossed : pageCrossed (s.pc + 2) (branchTarget s.pc offset) = true := decide_eq_true hpage.symm
  simp only [branch, if_true, hcrossed]
  rw [extraRead_bind_not_device hk, extraRead_bind_not_device hu]
  rfl

/-- Settles O28: every branch is the common operation with the condition of its row (`exec_rel`), of which the three
clauses are the three ways it completes. -/
theorem branchInstructions : Obligations.BranchInstructions := by
  refine ⟨fun offset => rfl, fun i offset s hi => ?_⟩
  obtain ⟨cond, hcond⟩ := exists_branchCondition hi s.flags
  refine ⟨cond, hcond, ?notTaken, ?samePage, ?otherPage⟩
  all_goals rw [exec_rel hi hcond]
  case notTaken =>
    rintro rfl
    exact congrArg toOutcome (branch_not_taken offset s)
  case samePage =>
    rintro rfl hk hpage
    exact congrArg toOutcome (branch_taken_same_page hk hpage)
  case otherPage =>
    rintro rfl hk hpage hu
    exact congrArg toOutcome (branch_taken_other_page hk hpage hu)

end Sys2Proof.Machine
end

section
/-! SUPPORT. The proofs of O48 and O55 (70_reset_and_hazards.md R293, 60_exceptions.md R243): a state in a context, with
more history and time before it and other listed inputs, answers a step as the state does, in that context; the listed
inputs matter to BRK, to an interrupt sequence and to the ends of a step alone, and there as the next input. -/

namespace Sys2Proof.Machine

/-- The listed inputs of a state, and the history and the time that came before it. -/
structure Context where
  inputs : List Input
  history : List Event
  time : Nat

/-- A state with other listed inputs, after a history and a time. -/
def Context.embed (c : Context) (s : State) : State :=
  { s with inputs := c.inputs, trace := s.trace ++ c.history, cycles := c.time + s.cycles }

/-- The value and the state of a read, the state in the context. -/
def Context.embedRead {α : Type} (c : Context) (r : α × State) : α × State := (r.1, c.embed r.2)

/-- An effective address, its state in the context. -/
def Context.embedEffective (c : Context) (e : Effective) : Effective := { e with state := c.embed e.state }

/-- A change of a state that neither reads nor writes the listed inputs, the history and the time. -/
def Unaware (f : State → State) : Prop := ∀ (c : Context) (s : State), f (c.embed s) = c.embed (f s)

/-- A sequence of two operations is in the context where both are. -/
theorem bind_eq_map {α α' β β' : Type} {x : Access α} {x' : Access α'} {f : α → Access β} {f' : α' → Access β'}
    {g : α → α'} {h : β → β'} (hx : x' = g <$> x) (hf : ∀ a, f' (g a) = h <$> f a) :
    (x' >>= f') = h <$> (x >>= f) := by
  subst hx
  cases x with
  | ok a => exact hf a
  | error r => rfl

theorem Context.tick_embed (c : Context) (s : State) (n : Nat) : (c.embed s).tick n = c.embed (s.tick n) := by
  simp only [State.tick, Context.embed, Nat.add_assoc]

section
variable (c : Context) (s : State)

-- Accesses

theorem extraRead_embed (addr : Word) : extraRead addr (c.embed s) = extraRead addr s := rfl

/-- A discarded read before an operation that is in the context. -/
theorem extraRead_bind_embed {α β : Type} {addr : Word} {f : Unit → Access α} {f' : Unit → Access β} {h : α → β}
    (hf : f' () = h <$> f ()) : (extraRead addr (c.embed s) >>= f') = h <$> (extraRead addr s >>= f) := by
  rw [extraRead_embed]
  exact bind_eq_map (id_map _).symm fun _ => hf

theorem memRead_embed (addr : Word) : memRead addr (c.embed s) = c.embedRead <$> memRead addr s := by
  have hp : (c.embed s).platform = s.platform := rfl
  unfold memRead
  rw [hp]
  cases kindAt s.platform addr <;> rfl

theorem memWrite_embed (addr : Word) (v : Byte) : memWrite addr v (c.embed s) = c.embed <$> memWrite addr v s := by
  have hp : (c.embed s).platform = s.platform := rfl
  unfold memWrite
  rw [hp]
  cases kindAt s.platform addr <;> rfl

theorem readPair_embed (lo hi : Word) : readPair lo hi (c.embed s) = c.embedRead <$> readPair lo hi s :=
  bind_eq_map (memRead_embed c s lo) fun r => bind_eq_map (memRead_embed c r.2 hi) fun _ => rfl

theorem push_embed (v : Byte) : push v (c.embed s) = c.embed <$> push v s :=
  bind_eq_map (memWrite_embed c s _ v) fun _ => rfl

theorem pull_embed : pull (c.embed s) = c.embedRead <$> pull s := memRead_embed c (s.setSp (s.sp + 1)) _

theorem pushWord_embed (w : Word) : pushWord w (c.embed s) = c.embed <$> pushWord w s :=
  bind_eq_map (push_embed c s _) fun u => push_embed c u _

theorem pullWord_embed : pullWord (c.embed s) = c.embedRead <$> pullWord s :=
  bind_eq_map (pull_embed c s) fun r => bind_eq_map (pull_embed c r.2) fun _ => rfl

theorem takeInterrupt_embed (ret : Word) (b : Bool) (vector : Word) :
    takeInterrupt ret b vector (c.embed s) = c.embed <$> takeInterrupt ret b vector s :=
  bind_eq_map (pushWord_embed c s ret) fun u => bind_eq_map (push_embed c u _) fun u' =>
    bind_eq_map (readPair_embed c (u'.setFlags u'.flags.disableIrq) _ _) fun _ => rfl

theorem returnFromInterrupt_embed : returnFromInterrupt (c.embed s) = c.embed <$> returnFromInterrupt s :=
  bind_eq_map (pull_embed c s) fun r =>
    bind_eq_map (pullWord_embed c (r.2.setFlags (unpackP r.1))) fun _ => rfl

-- Operand forms

theorem indexed_embed (kind : AccessKind) (base : Word) (index : Byte) :
    indexed kind base index (c.embed s) = c.embedEffective <$> indexed kind base index s := by
  unfold indexed
  dsimp only
  split
  · exact extraRead_bind_embed c s rfl
  · rfl

theorem effective_embed (kind : AccessKind) (m : MemMode) :
    effective kind m (c.embed s) = c.embedEffective <$> effective kind m s := by
  cases m with
  | zp b | abs w => rfl
  | zpx b | zpy b => exact extraRead_bind_embed c s rfl
  | absx w | absy w => exact indexed_embed c s _ _ _
  | indx b => exact extraRead_bind_embed c s (bind_eq_map (readPair_embed c s _ _) fun _ => rfl)
  | indy b => exact bind_eq_map (readPair_embed c s _ _) fun r => indexed_embed c r.2 _ _ _

theorem readSource_embed (src : Source) : readSource src (c.embed s) = c.embedRead <$> readSource src s := by
  cases src with
  | imm b => rfl
  | mem m =>
    exact bind_eq_map (effective_embed c s _ m) fun e => bind_eq_map (memRead_embed c e.state e.addr) fun r =>
      congrArg (fun u => pure (r.1, u)) (c.tick_embed r.2 _)

theorem withSource_embed {f : Byte → State → State} (hf : ∀ v, Unaware (f v)) (src : Source) :
    withSource src f (c.embed s) = c.embed <$> withSource src f s :=
  bind_eq_map (readSource_embed c s src) fun r =>
    congrArg (fun u => pure (advance (sourceLength src) u)) (hf r.1 c r.2)

theorem addCarry_embed (src : Source) : addCarry src (c.embed s) = c.embed <$> addCarry src s := by
  have hd : decimalActive (c.embed s) = decimalActive s := rfl
  unfold addCarry
  rw [hd]
  split
  · rfl
  · exact withSource_embed c s (fun _ _ _ => rfl) src

theorem subtractCarry_embed (src : Source) : subtractCarry src (c.embed s) = c.embed <$> subtractCarry src s := by
  have hd : decimalActive (c.embed s) = decimalActive s := rfl
  unfold subtractCarry
  rw [hd]
  split
  · rfl
  · exact withSource_embed c s (fun _ _ _ => rfl) src

theorem storeByte_embed (m : MemMode) (v : Byte) : storeByte m v (c.embed s) = c.embed <$> storeByte m v s :=
  bind_eq_map (effective_embed c s _ m) fun e => bind_eq_map (memWrite_embed c e.state e.addr v) fun u =>
    congrArg (fun u => pure (advance (memLength m) u)) (c.tick_embed u _)

theorem modifyMem_embed (m : MemMode) (f : ByteOp) : modifyMem m f (c.embed s) = c.embed <$> modifyMem m f s :=
  bind_eq_map (effective_embed c s _ m) fun e => bind_eq_map (memRead_embed c e.state e.addr) fun r =>
    bind_eq_map (memWrite_embed c r.2 e.addr r.1) fun u => bind_eq_map (memWrite_embed c u e.addr _) fun u' =>
      congrArg (fun t => pure (advance (memLength m) t)) (c.tick_embed (u'.setFlags (f r.1 u'.flags).2) _)

-- Instructions without an operand byte

theorem implied_embed {f : State → State} (hf : Unaware f) : implied f (c.embed s) = c.embed <$> implied f s :=
  extraRead_bind_embed c s (congrArg (fun u => pure (advance 1 (u.tick 2))) (hf c s))

theorem modifyA_embed (f : ByteOp) : modifyA f (c.embed s) = c.embed <$> modifyA f s :=
  implied_embed c s fun _ _ => rfl

theorem branch_embed (cond : Bool) (offset : Int) :
    branch cond offset (c.embed s) = c.embed <$> branch cond offset s := by
  have hpc : (c.embed s).pc = s.pc := rfl
  cases cond with
  | false => rfl
  | true =>
    refine extraRead_bind_embed c s ?_
    rw [hpc]
    split_ifs
    · exact extraRead_bind_embed c s rfl
    · rfl

theorem pushRegister_embed {value : State → Byte} (hv : value (c.embed s) = value s) :
    pushRegister value (c.embed s) = c.embed <$> pushRegister value s :=
  extraRead_bind_embed c s (bind_eq_map (by rw [hv]; exact push_embed c s (value s)) fun _ => rfl)

theorem pullRegister_embed {f : Byte → State → State} (hf : ∀ v, Unaware (f v)) :
    pullRegister f (c.embed s) = c.embed <$> pullRegister f s :=
  extraRead_bind_embed c s (extraRead_bind_embed c s (bind_eq_map (pull_embed c s) fun r =>
    congrArg (fun u => pure (advance 1 (u.tick 4))) (hf r.1 c r.2)))

theorem jumpIndirect_embed (p : Word) : jumpIndirect p (c.embed s) = c.embed <$> jumpIndirect p s :=
  bind_eq_map (readPair_embed c s _ _) fun _ => rfl

theorem jumpSubroutine_embed (w : Word) : jumpSubroutine w (c.embed s) = c.embed <$> jumpSubroutine w s :=
  extraRead_bind_embed c s (bind_eq_map (pushWord_embed c s _) fun _ => rfl)

theorem returnSubroutine_embed : returnSubroutine (c.embed s) = c.embed <$> returnSubroutine s :=
  extraRead_bind_embed c s (extraRead_bind_embed c s (bind_eq_map (pullWord_embed c s) fun r =>
    extraRead_bind_embed c r.2 rfl))

theorem returnInterrupt_embed : returnInterrupt (c.embed s) = c.embed <$> returnInterrupt s :=
  extraRead_bind_embed c s (extraRead_bind_embed c s (bind_eq_map (returnFromInterrupt_embed c s) fun _ => rfl))

-- What reads the next input

variable {c s}

theorem currentEnv_embed (h : nextInput (c.embed s) = nextInput s) : currentEnv (c.embed s) = currentEnv s := by
  unfold currentEnv
  rw [h]

theorem breakInterrupt_embed (h : nextInput (c.embed s) = nextInput s) :
    breakInterrupt (c.embed s) = c.embed <$> breakInterrupt s := by
  have he := currentEnv_embed h
  have hh : brkHijacked (c.embed s) = brkHijacked s := by
    unfold brkHijacked
    rw [he]
    rfl
  unfold breakInterrupt
  dsimp only
  rw [he, hh]
  exact extraRead_bind_embed c s (bind_eq_map (takeInterrupt_embed c s _ _ _) fun _ => rfl)

theorem interruptEntry_embed (h : nextInput (c.embed s) = nextInput s) (kind : Interrupt) :
    interruptEntry kind (c.embed s) = c.embed <$> interruptEntry kind s := by
  unfold interruptEntry
  dsimp only
  rw [currentEnv_embed h]
  exact extraRead_bind_embed c s (bind_eq_map (takeInterrupt_embed c s _ _ _) fun _ => rfl)

theorem overflowPin_embed (h : nextInput (c.embed s) = nextInput s) :
    overflowPin (c.embed s) = c.embed (overflowPin s) := by
  have hp : (c.embed s).platform = s.platform := rfl
  unfold overflowPin
  rw [currentEnv_embed h, hp]
  split <;> rfl

end

-- Every instruction

section
variable {a : Operand} {g : State → State}

theorem onSource_map {f f' : Source → Access State} (h : ∀ src, f' src = g <$> f src) :
    onSource a f' = (onSource a f).map (g <$> ·) := by
  cases a with
  | src src => exact congrArg some (h src)
  | _ => rfl

theorem onMem_map {f f' : MemMode → Access State} (h : ∀ m, f' m = g <$> f m) :
    onMem a f' = (onMem a f).map (g <$> ·) := by
  rcases a with _ | _ | ⟨_ | m⟩ | _ | _
  case src.mem => exact congrArg some (h m)
  all_goals rfl

theorem onImplied_map {x x' : Access State} (h : x' = g <$> x) : onImplied a x' = (onImplied a x).map (g <$> ·) := by
  cases a with
  | imp => exact congrArg some h
  | _ => rfl

theorem onTarget_map {f f' : Word → Access State} {j j' : Word → Option (Access State)}
    (h : ∀ w, f' w = g <$> f w) (hj : ∀ p, j' p = (j p).map (g <$> ·)) :
    onTarget a f' j' = (onTarget a f j).map (g <$> ·) := by
  rcases a with _ | _ | ⟨_ | ⟨_ | _ | _ | w | _ | _ | _ | _⟩⟩ | _ | p
  case src.mem.abs => exact congrArg some (h w)
  case ind => exact hj p
  all_goals rfl

end

theorem onAccOrMem_embed (c : Context) (a : Operand) (f : ByteOp) (s : State) :
    onAccOrMem a f (c.embed s) = (onAccOrMem a f s).map (c.embed <$> ·) := by
  rcases a with _ | _ | ⟨_ | m⟩ | _ | _
  case acc => exact congrArg some (modifyA_embed c s f)
  case src.mem => exact congrArg some (modifyMem_embed c s m f)
  all_goals rfl

theorem onRel_embed (c : Context) (a : Operand) (cond : Bool) (s : State) :
    onRel a cond (c.embed s) = (onRel a cond s).map (c.embed <$> ·) := by
  cases a with
  | rel offset => exact congrArg some (branch_embed c s cond offset)
  | _ => rfl

/-- A mnemonic with an operand form does in a context what it does without; by the family of the mnemonic. -/
theorem meaningOf_embed {c : Context} {s : State} (h : nextInput (c.embed s) = nextInput s) (o : Op) (a : Operand) :
    meaningOf o a (c.embed s) = (meaningOf o a s).map (c.embed <$> ·) := by
  cases o with
  | lda | ldx | ldy | and | ora | eor | cmp | cpx | cpy =>
    exact onSource_map fun src => withSource_embed c s (fun _ _ _ => rfl) src
  | bit => exact onMem_map fun m => withSource_embed c s (fun _ _ _ => rfl) (.mem m)
  | adc => exact onSource_map fun src => addCarry_embed c s src
  | sbc => exact onSource_map fun src => subtractCarry_embed c s src
  | sta | stx | sty => exact onMem_map fun m => storeByte_embed c s m _
  | inc | dec => exact onMem_map fun m => modifyMem_embed c s m _
  | asl | lsr | rol | ror => exact onAccOrMem_embed c a _ s
  | tax | txa | tay | tya | inx | dex | iny | dey | txs | tsx | clc | sec | cli | sei | cld | sed | clv | nop =>
    exact onImplied_map (implied_embed c s fun _ _ => rfl)
  | bcc | bcs | beq | bne | bpl | bmi | bvc | bvs => exact onRel_embed c a _ s
  | jmp => exact onTarget_map (fun _ => rfl) fun p => congrArg some (jumpIndirect_embed c s p)
  | jsr => exact onTarget_map (fun w => jumpSubroutine_embed c s w) fun _ => rfl
  | rts => exact onImplied_map (returnSubroutine_embed c s)
  | brk => exact onImplied_map (breakInterrupt_embed h)
  | rti => exact onImplied_map (returnInterrupt_embed c s)
  | pha | php => exact onImplied_map (pushRegister_embed c s rfl)
  | pla | plp => exact onImplied_map (pullRegister_embed c s fun _ _ _ => rfl)

/-- The outcome of a step with a change of its next state. -/
def mapNext (g : State → State) : StepResult → StepResult
  | .next t => .next (g t)
  | .fault f => .fault f
  | .refused r => .refused r

theorem toOutcome_map (g : State → State) (x : Access State) : toOutcome (g <$> x) = mapNext g (toOutcome x) := by
  cases x <;> rfl

theorem exec_embed {c : Context} {s : State} (h : nextInput (c.embed s) = nextInput s) (i : Instr) :
    exec i (c.embed s) = mapNext c.embed (exec i s) := by
  obtain ⟨x, hm, hx⟩ := meaningOf_eq_some i s
  rw [hx, ← toOutcome_map]
  exact exec_of_meaning (by rw [meaningOf_embed h, hm]; rfl)

-- Every step

/-- The context after a step: one listed input is taken. -/
def Context.afterStep (c : Context) : Context := { c with inputs := c.inputs.tail }

theorem fetch_embed (c : Context) (s : State) : fetch (c.embed s) = c.embedRead <$> fetch s := by
  refine bind_eq_map (memRead_embed c s s.pc) fun ⟨opcode, u⟩ => ?_
  dsimp only [Context.embedRead]
  cases layoutOf opcode with
  | none => rfl
  | some layout =>
    cases layout with
    | f1 i => rfl
    | f2 make => exact bind_eq_map (memRead_embed c u _) fun _ => rfl
    | f3 make => exact bind_eq_map (memRead_embed c u _) fun r => bind_eq_map (memRead_embed c r.2 _) fun _ => rfl

theorem takeReset_embed (c : Context) (d : ResetDraw) (s : State) :
    takeReset d (c.embed s) = c.embed <$> takeReset d s :=
  bind_eq_map (readPair_embed c s _ _) fun _ => rfl

theorem finishInstr_embed {c : Context} {s : State} (h : nextInput (c.embed s) = nextInput s) (o : Op)
    (before : Bool) : finishInstr o before (c.embed s) = c.afterStep.embed (finishInstr o before s) := by
  have hi : (c.embed s).flags.i = s.flags.i := rfl
  unfold finishInstr pollAfter
  rw [hi]
  cases pollFlag o before s.flags.i with
  | none => rfl
  | some iPoll =>
    dsimp only [poll]
    rw [currentEnv_embed h]
    rfl

/-- The next input in a context is that of the state, when another state has the same inputs and count of steps. -/
theorem nextInput_embed_of_keeps {c : Context} {s t : State} (h : nextInput (c.embed s) = nextInput s)
    (k : Keeps s t) : nextInput (c.embed t) = nextInput t := by
  rw [nextInput_congr k.inputs k.steps, ← h]
  exact nextInput_congr rfl k.steps

theorem stepInstr_embed {c : Context} {s : State} (h : nextInput (c.embed s) = nextInput s) :
    stepInstr (c.embed s) = mapNext c.afterStep.embed (stepInstr s) := by
  unfold stepInstr
  rw [fetch_embed]
  cases hf : fetch s with
  | error r => rfl
  | ok r =>
    obtain ⟨i, u⟩ := r
    have hu := nextInput_embed_of_keeps h (.fetch hf)
    dsimp only [Functor.map, Except.map, Context.embedRead]
    rw [exec_embed hu]
    cases he : exec i u with
    | next v => exact congrArg Host.Outcome.next (finishInstr_embed (nextInput_embed_of_keeps hu (.exec he)) _ _)
    | fault f => rfl
    | refused r => rfl

/-- An operation that is in the context ends, with the input taken, a step that is in the context after it. -/
theorem toOutcome_popInput_embed {c : Context} {x x' : Access State} (h : x' = c.embed <$> x) :
    toOutcome (popInput <$> x') = mapNext c.afterStep.embed (toOutcome (popInput <$> x)) := by
  subst h
  cases x <;> rfl

/-- A step in a context that has the same next input is the step without it, in the context after it. -/
theorem step_embed {c : Context} {s : State} (h : nextInput (c.embed s) = nextInput s) :
    step (c.embed s) = mapNext c.afterStep.embed (step s) := by
  cases hi : nextInput s with
  | reset d =>
    rw [step_reset hi, step_reset (h.trans hi)]
    exact toOutcome_popInput_embed (takeReset_embed c d s)
  | env e =>
    have hr : resetNext s = false := resetNext_eq_false.mpr ⟨e, hi⟩
    have hr' : resetNext (c.embed s) = false := resetNext_eq_false.mpr ⟨e, h.trans hi⟩
    have hpin := nextInput_embed_of_keeps h (.overflowPin s)
    cases hl : s.intLatch with
    | none =>
      rw [step_instr hr hl, step_instr hr' hl, overflowPin_embed h]
      exact stepInstr_embed hpin
    | some kind =>
      rw [step_interrupt hr hl, step_interrupt hr' hl, overflowPin_embed h]
      exact toOutcome_popInput_embed (interruptEntry_embed hpin kind)

/-- A state without history and time. -/
def State.bare (s : State) : State := { s with trace := [], cycles := 0 }

/-- Any history, time and listed inputs are a context of the bare state. -/
theorem step_of_bare (s : State) (c : Context)
    (h : nextInput { s with inputs := c.inputs, trace := c.history, cycles := c.time } = nextInput s) :
    step { s with inputs := c.inputs, trace := c.history, cycles := c.time } =
      mapNext c.afterStep.embed (step s.bare) :=
  step_embed (c := c) (s := s.bare) h

/-- Settles O48: both steps are the step of the bare state in a context each, and the two contexts differ in the history
and the time alone. -/
theorem timeAndHistoryAreUnobservable : Obligations.TimeAndHistoryAreUnobservable := by
  intro s history time
  have h1 : step s = _ := step_of_bare s ⟨s.inputs, s.trace, s.cycles⟩ rfl
  have h2 : step { s with trace := history, cycles := time } = _ := step_of_bare s ⟨s.inputs, history, time⟩ rfl
  rw [h1, h2]
  cases step s.bare with
  | next t =>
    refine ⟨fun t' ht => ?_, nofun⟩
    obtain rfl := Host.Outcome.next.inj ht
    exact ⟨_, _, rfl⟩
  | fault f => exact nomatch f
  | refused r => exact ⟨nofun, fun r' hr => hr⟩

/-- Settles O55: the two steps are the step of the bare state in two contexts with the same next input, which is taken
in both. -/
theorem freeInputsActAsListedOnes : Obligations.FreeInputsActAsListedOnes := by
  intro s hs
  have hnext : nextInput s = Config.laterInput s.steps := by
    unfold nextInput
    rw [hs]
  have h1 : step s = _ := step_of_bare s ⟨s.inputs, s.trace, s.cycles⟩ rfl
  have h2 : step { s with inputs := [Config.laterInput s.steps] } = _ :=
    step_of_bare s ⟨[Config.laterInput s.steps], s.trace, s.cycles⟩ hnext.symm
  rw [h1, h2, hs]
  rfl

end Sys2Proof.Machine
end

section
/-! SUPPORT. The proofs of O56 and O5 (60_exceptions.md R240, 20_memory.md R60): a fetch reads the bytes that decode to
the instruction, in order, and no more. -/

namespace Sys2Proof.Machine

/-- Reading so many bytes and one more is the read of the first byte and then of the rest. -/
theorem readBytes_succ_eq_ok {addr : Word} {n : Nat} {s u : State} {bytes : List Byte} :
    readBytes addr (n + 1) s = .ok (bytes, u) ↔
      ∃ b t rest, memRead addr s = .ok (b, t) ∧ readBytes (addr + 1) n t = .ok (rest, u) ∧ bytes = b :: rest := by
  simp only [readBytes, access_bind_eq_ok, access_pure_eq_ok, Prod.exists, Prod.mk.injEq]
  constructor
  · rintro ⟨b, t, h1, rest, u', h2, rfl, rfl⟩
    exact ⟨b, t, rest, h1, h2, rfl⟩
  · rintro ⟨b, t, rest, h1, h2, rfl⟩
    exact ⟨b, t, h1, rest, u, h2, rfl, rfl⟩

theorem readBytes_zero_eq_ok {addr : Word} {s u : State} {bytes : List Byte} :
    readBytes addr 0 s = .ok (bytes, u) ↔ bytes = [] ∧ u = s := by
  simp only [readBytes, access_pure_eq_ok, Prod.mk.injEq, @eq_comm _ bytes, @eq_comm _ u]

/-- A read that gives a first byte read it at the address. -/
theorem readBytes_cons_eq_ok {addr : Word} {n : Nat} {s u : State} {b : Byte} {rest : List Byte}
    (h : readBytes addr n s = .ok (b :: rest, u)) :
    ∃ t k, memRead addr s = .ok (b, t) ∧ t.pc = s.pc ∧ readBytes (addr + 1) k t = .ok (rest, u) := by
  cases n with
  | zero => exact nomatch (readBytes_zero_eq_ok.mp h).1
  | succ k =>
    obtain ⟨b', t, rest', h1, h2, heq⟩ := readBytes_succ_eq_ok.mp h
    obtain ⟨rfl, rfl⟩ := List.cons.inj heq
    exact ⟨t, k, h1, by rw [← (memRead_frame h1).1]; rfl, h2⟩

/-- A read that gives no further byte is over. -/
theorem readBytes_nil_eq_ok {addr : Word} {n : Nat} {s u : State} (h : readBytes addr n s = .ok ([], u)) : u = s := by
  cases n with
  | zero => exact (readBytes_zero_eq_ok.mp h).2
  | succ k =>
    obtain ⟨b, t, rest, -, -, heq⟩ := readBytes_succ_eq_ok.mp h
    exact nomatch heq

/-- The fetch at PC gives the instruction that the bytes read from PC decode to, and makes just those reads; by the
layout of the opcode. -/
theorem fetch_of_readBytes {n : Nat} {s u : State} {bytes : List Byte} {i : Instr}
    (hread : readBytes s.pc n s = .ok (bytes, u)) (hdecode : decode bytes = .ok (i, [])) :
    fetch s = .ok (i, u) := by
  obtain ⟨opcode, operands, layout, rfl, hlayout, hmakes⟩ := decode_eq_ok.mp hdecode
  rw [List.append_nil] at hread
  obtain ⟨t, k, h1, hpc, hrest⟩ := readBytes_cons_eq_ok hread
  rw [fetch, h1, access_ok_bind]
  dsimp only
  rw [hlayout]
  cases hmakes with
  | f1 =>
    obtain rfl := readBytes_nil_eq_ok hrest
    rfl
  | f2 make b =>
    obtain ⟨t', k', h2, -, hrest'⟩ := readBytes_cons_eq_ok hrest
    obtain rfl := readBytes_nil_eq_ok hrest'
    dsimp only
    rw [hpc, h2]
    rfl
  | f3 make w =>
    obtain ⟨t', k', h2, hpc', hrest'⟩ := readBytes_cons_eq_ok hrest
    obtain ⟨t'', k'', h3, -, hrest''⟩ := readBytes_cons_eq_ok hrest'
    obtain rfl := readBytes_nil_eq_ok hrest''
    have e : s.pc + 1 + 1 = s.pc + 2 := by bv_omega
    dsimp only
    rw [hpc, h2, access_ok_bind]
    dsimp only
    rw [hpc', hpc, ← e, h3, access_ok_bind]
    dsimp only
    rw [wordOf_hi8_lo8]
    rfl

theorem stepInstr_of_fetch {s u : State} {i : Instr} (h : fetch s = .ok (i, u)) :
    stepInstr s = mapNext (finishInstr i.op u.flags.i) (exec i u) := by
  unfold stepInstr
  rw [h]
  rfl

/-- A step whose bytes are read and decode to an instruction is the instruction and what follows it. -/
theorem step_of_readBytes {s u : State} {i : Instr} {n : Nat} {bytes : List Byte} (hr : resetNext s = false)
    (hl : s.intLatch = none) (hread : readBytes s.pc n (overflowPin s) = .ok (bytes, u))
    (hdecode : decode bytes = .ok (i, [])) :
    step s = mapNext (finishInstr i.op u.flags.i) (exec i u) := by
  rw [← overflowPin_pc] at hread
  rw [step_instr hr hl, stepInstr_of_fetch (fetch_of_readBytes hread hdecode)]

/-- Settles O56: the step is an instruction, which begins with the overflow pin and the fetch. -/
theorem stepRunsFetchedInstruction : Obligations.StepRunsFetchedInstruction := by
  intro s u i bytes hr hl hread hdecode
  rw [step_of_readBytes hr hl hread hdecode]
  rfl

/-- The bytes of a run of cells, from an address upwards. -/
def cellRun (m : Memory) (addr : Word) : Nat → List Byte
  | 0 => []
  | n + 1 => cellAt m addr :: cellRun m (addr + 1) n

/-- The reads of a run of cells, in order. -/
def cellReads (m : Memory) (addr : Word) : Nat → List Event
  | 0 => []
  | n + 1 => .read addr (cellAt m addr) :: cellReads m (addr + 1) n

theorem length_cellRun (m : Memory) (addr : Word) (n : Nat) : (cellRun m addr n).length = n := by
  induction n generalizing addr with
  | zero => rfl
  | succ n ih => exact congrArg _ (ih _)

theorem take_cellRun (m : Memory) (addr : Word) {k n : Nat} (h : k ≤ n) :
    (cellRun m addr n).take k = cellRun m addr k := by
  induction n generalizing addr k with
  | zero =>
    obtain rfl := Nat.le_zero.mp h
    rfl
  | succ n ih =>
    cases k with
    | zero => rfl
    | succ k => exact congrArg _ (ih _ (Nat.le_of_succ_le_succ h))

theorem take_cellReads (m : Memory) (addr : Word) {k n : Nat} (h : k ≤ n) :
    (cellReads m addr n).take k = cellReads m addr k := by
  induction n generalizing addr k with
  | zero =>
    obtain rfl := Nat.le_zero.mp h
    rfl
  | succ n ih =>
    cases k with
    | zero => rfl
    | succ k => exact congrArg _ (ih _ (Nat.le_of_succ_le_succ h))

/-- Reading bytes that lie in cells gives the cells and changes nothing but the event history. -/
theorem readBytes_cells {addr : Word} {n : Nat} {s : State}
    (h : ∀ k, k < n → holdsCell s.platform (addr + BitVec.ofNat 16 k)) :
    readBytes addr n s =
      .ok (cellRun s.mem addr n, { s with trace := (cellReads s.mem addr n).reverse ++ s.trace }) := by
  induction n generalizing addr s with
  | zero => rfl
  | succ n ih =>
    have h0 : holdsCell s.platform addr := by simpa using h 0 (Nat.succ_pos n)
    have hrest := ih (addr := addr + 1) (s := s.record (.read addr (cellAt s.mem addr))) fun k hk => by
      have e : addr + BitVec.ofNat 16 (k + 1) = addr + 1 + BitVec.ofNat 16 k := by bv_omega
      exact e ▸ h (k + 1) (Nat.succ_lt_succ hk)
    refine readBytes_succ_eq_ok.mpr ⟨_, _, _, memRead_cell h0, hrest.trans ?_, rfl⟩
    simp [cellReads, State.record]

/-- The bytes of an instruction at the front of a run of cells are as many cells of it. -/
theorem cellRun_length_of_decode {m : Memory} {addr : Word} {n : Nat} {i : Instr} {rest : List Byte}
    (h : decode (cellRun m addr n) = .ok (i, rest)) :
    decode (cellRun m addr i.length) = .ok (i, []) ∧ i.length ≤ n := by
  obtain ⟨hwf, hbytes⟩ := encodeWritesBackDecode _ i rest h
  have hle : i.length ≤ n := by
    have hlen := congrArg List.length hbytes
    rw [length_cellRun, List.length_append] at hlen
    exact hlen ▸ Nat.le_add_right _ _
  have htake : cellRun m addr i.length = encode i ++ [] := by
    rw [← take_cellRun m addr hle, hbytes, List.append_nil]
    exact List.take_left
  exact ⟨htake ▸ decodeReadsBackEncode i [] hwf, hle⟩

/-- The state in which the instruction of a step runs, its bytes read from cells. -/
def afterCellFetch (s : State) (n : Nat) : State :=
  { overflowPin s with trace := (cellReads s.mem s.pc n).reverse ++ s.trace }

/-- A step whose bytes lie in cells is the instruction they decode to and what follows it. -/
theorem step_of_cells {s : State} {i : Instr} {rest : List Byte} (hr : resetNext s = false)
    (hl : s.intLatch = none) (hcell : ∀ k, k < i.length → holdsCell s.platform (s.pc + BitVec.ofNat 16 k))
    (hdecode : decode (cellRun s.mem s.pc 3) = .ok (i, rest)) :
    step s = mapNext (finishInstr i.op (afterCellFetch s i.length).flags.i) (exec i (afterCellFetch s i.length)) ∧
      i.length ≤ 3 := by
  obtain ⟨hdecode', hle⟩ := cellRun_length_of_decode hdecode
  have hread : readBytes s.pc i.length (overflowPin s) =
      .ok (cellRun s.mem s.pc i.length, afterCellFetch s i.length) := by
    simpa [afterCellFetch] using readBytes_cells (s := overflowPin s) (by simpa using hcell)
  exact ⟨step_of_readBytes hr hl hread hdecode', hle⟩

theorem cellRun_three (m : Memory) (addr : Word) :
    cellRun m addr 3 = [cellAt m addr, cellAt m (addr + 1), cellAt m (addr + 2)] := by
  have e : addr + 1 + 1 = addr + 2 := by bv_omega
  simp only [cellRun, e]

theorem cellReads_three (m : Memory) (addr : Word) : cellReads m addr 3 =
    [.read addr (cellAt m addr), .read (addr + 1) (cellAt m (addr + 1)), .read (addr + 2) (cellAt m (addr + 2))] := by
  have e : addr + 1 + 1 = addr + 2 := by bv_omega
  simp only [cellReads, e]

/-- Settles O5: the reads of the bytes of the instruction are the first ones of the three cells at PC. -/
theorem stepRunsDecodedInstruction : Obligations.StepRunsDecodedInstruction := by
  intro s i rest hr hl hcell hdecode fetched s0
  obtain ⟨hstep, hle⟩ := step_of_cells hr hl hcell (cellRun_three s.mem s.pc ▸ hdecode)
  have hs0 : s0 = afterCellFetch s i.length := by
    simp only [s0, fetched, afterCellFetch, ← take_cellReads s.mem s.pc hle, cellReads_three]
  rw [hs0, hstep]
  rfl

end Sys2Proof.Machine
end

section
/-! SUPPORT. The proof of O6 (60_exceptions.md R246): what an instruction leaves of the pending NMI, and what the poll
after it makes of that. -/

namespace Sys2Proof.Machine

theorem nmiPending_of_withBus {s t : State} (h : s.withBus t = t) : t.nmiPending = s.nmiPending := by
  rw [← h]
  rfl

theorem pull_nmiPending {v : Byte} {s t : State} (h : pull s = .ok (v, t)) : t.nmiPending = s.nmiPending := by
  rw [(pull_frame h).1]
  rfl

theorem pullWord_nmiPending {w : Word} {s t : State} (h : pullWord s = .ok (w, t)) :
    t.nmiPending = s.nmiPending := by
  rw [(pullWord_frame h).1]
  rfl

theorem withSource_nmiPending {src : Source} {f : Byte → State → State} {s t : State}
    (h : withSource src f s = .ok t) (hf : ∀ v u, (f v u).nmiPending = u.nmiPending) :
    t.nmiPending = s.nmiPending := by
  obtain ⟨v, u, n, rfl, -⟩ := withSource_inv h
  exact hf v ((s.withBus u).tick n)

theorem storeByte_nmiPending {m : MemMode} {v : Byte} {s t : State} (h : storeByte m v s = .ok t) :
    t.nmiPending = s.nmiPending := by
  obtain ⟨e, -, -, rfl⟩ := storeByte_eq_ok.mp h
  rfl

theorem modifyMem_nmiPending {m : MemMode} {f : ByteOp} {s t : State} (h : modifyMem m f s = .ok t) :
    t.nmiPending = s.nmiPending := by
  obtain ⟨e, v, u, -, -, rfl⟩ := modifyMem_eq_ok.mp h
  rfl

theorem pushRegister_nmiPending {value : State → Byte} {s t : State} (h : pushRegister value s = .ok t) :
    t.nmiPending = s.nmiPending := by
  obtain ⟨-, u, hu, rfl⟩ := pushRegister_eq_ok.mp h
  obtain ⟨-, rfl⟩ := push_eq_ok.mp hu
  rfl

theorem pullRegister_nmiPending {f : Byte → State → State} {s t : State} (h : pullRegister f s = .ok t)
    (hf : ∀ v u, (f v u).nmiPending = u.nmiPending) : t.nmiPending = s.nmiPending := by
  obtain ⟨-, -, v, u, hu, rfl⟩ := pullRegister_eq_ok.mp h
  exact (hf v u).trans (pull_nmiPending hu)

theorem jumpIndirect_nmiPending {p : Word} {s t : State} (h : jumpIndirect p s = .ok t) :
    t.nmiPending = s.nmiPending := by
  simp only [jumpIndirect, access_bind_eq_ok, access_pure_eq_ok, Prod.exists] at h
  obtain ⟨_, u, hu, rfl⟩ := h
  exact (nmiPending_of_withBus (readPair_frame hu).1 :)

theorem jumpSubroutine_nmiPending {w : Word} {s t : State} (h : jumpSubroutine w s = .ok t) :
    t.nmiPending = s.nmiPending := by
  simp only [jumpSubroutine, access_bind_eq_ok, access_pure_eq_ok, pushWord_eq_ok] at h
  obtain ⟨_, -, u, ⟨-, -, rfl⟩, rfl⟩ := h
  rfl

theorem returnSubroutine_nmiPending {s t : State} (h : returnSubroutine s = .ok t) :
    t.nmiPending = s.nmiPending := by
  simp only [returnSubroutine, access_bind_eq_ok, access_pure_eq_ok, Prod.exists] at h
  obtain ⟨_, -, _, -, _, u, hu, _, -, rfl⟩ := h
  exact (pullWord_nmiPending hu :)

theorem returnInterrupt_nmiPending {s t : State} (h : returnInterrupt s = .ok t) : t.nmiPending = s.nmiPending := by
  simp only [returnInterrupt, access_bind_eq_ok, access_pure_eq_ok, returnFromInterrupt_eq_ok] at h
  obtain ⟨_, -, _, -, _, ⟨p, u, _, u', hu, hu', rfl⟩, rfl⟩ := h
  have hword : u'.nmiPending = (u.setFlags (unpackP p)).nmiPending := pullWord_nmiPending hu'
  exact hword.trans (pull_nmiPending hu :)

/-- No mnemonic but BRK changes the pending NMI (10_state.md R36); by the family of the mnemonic. -/
theorem nmiPending_of_meaningOf {o : Op} {a : Operand} {s t : State} (hm : meaningOf o a s = some (.ok t))
    (ho : o ≠ .brk) : t.nmiPending = s.nmiPending := by
  cases o with
  | brk => exact absurd rfl ho
  | lda | ldx | ldy | and | ora | eor | cmp | cpx | cpy =>
    obtain ⟨src, -, h⟩ := onSource_eq_some.mp hm
    exact withSource_nmiPending h fun _ _ => rfl
  | bit =>
    obtain ⟨m, -, h⟩ := onMem_eq_some.mp hm
    exact withSource_nmiPending h fun _ _ => rfl
  | adc =>
    obtain ⟨src, -, h⟩ := onSource_eq_some.mp hm
    exact withSource_nmiPending (addCarry_eq_ok.mp h).2 fun _ _ => rfl
  | sbc =>
    obtain ⟨src, -, h⟩ := onSource_eq_some.mp hm
    exact withSource_nmiPending (subtractCarry_eq_ok.mp h).2 fun _ _ => rfl
  | sta | stx | sty =>
    obtain ⟨m, -, h⟩ := onMem_eq_some.mp hm
    exact storeByte_nmiPending h
  | inc | dec =>
    obtain ⟨m, -, h⟩ := onMem_eq_some.mp hm
    exact modifyMem_nmiPending h
  | asl | lsr | rol | ror =>
    rcases onAccOrMem_eq_some.mp hm with ⟨-, h⟩ | ⟨m, -, h⟩
    · obtain ⟨-, rfl⟩ := modifyA_eq_ok.mp h
      rfl
    · exact modifyMem_nmiPending h
  | tax | txa | tay | tya | inx | dex | iny | dey | txs | tsx | clc | sec | cli | sei | cld | sed | clv | nop =>
    obtain ⟨-, h⟩ := onImplied_eq_some.mp hm
    obtain ⟨-, rfl⟩ := implied_eq_ok.mp h
    rfl
  | bcc | bcs | beq | bne | bpl | bmi | bvc | bvs =>
    obtain ⟨offset, -, h⟩ := onRel_eq_some.mp hm
    obtain ⟨_, _, rfl, -⟩ := branch_inv h
    rfl
  | jmp =>
    rcases onTarget_eq_some.mp hm with ⟨w, -, h⟩ | ⟨p, -, h⟩
    · obtain rfl := Except.ok.inj h
      rfl
    · exact jumpIndirect_nmiPending (Option.some.inj h)
  | jsr =>
    rcases onTarget_eq_some.mp hm with ⟨w, -, h⟩ | ⟨p, -, h⟩
    · exact jumpSubroutine_nmiPending h
    · exact nomatch h
  | rts =>
    obtain ⟨-, h⟩ := onImplied_eq_some.mp hm
    exact returnSubroutine_nmiPending h
  | rti =>
    obtain ⟨-, h⟩ := onImplied_eq_some.mp hm
    exact returnInterrupt_nmiPending h
  | pha | php =>
    obtain ⟨-, h⟩ := onImplied_eq_some.mp hm
    exact pushRegister_nmiPending h
  | pla | plp =>
    obtain ⟨-, h⟩ := onImplied_eq_some.mp hm
    exact pullRegister_nmiPending h fun _ _ => rfl

/-- The I that the poll of an instruction sees, if it polls (60_exceptions.md R246). -/
theorem pollFlag_eq_some {o : Op} (ho : o ≠ .brk) (before after : Bool) :
    pollFlag o before after = some (if o = .cli ∨ o = .sei ∨ o = .plp then before else after) := by
  cases o with
  | brk => exact absurd rfl ho
  | _ => rfl

theorem pollAfter_of_ne_brk {o : Op} (ho : o ≠ .brk) (before : Bool) (s : State) : pollAfter o before s =
    poll (if o = .cli ∨ o = .sei ∨ o = .plp then before else s.flags.i) s := by
  unfold pollAfter
  rw [pollFlag_eq_some ho]

/-- What follows an instruction leaves the flags. -/
theorem finishInstr_flags (o : Op) (before : Bool) (s : State) : (finishInstr o before s).flags = s.flags := by
  unfold finishInstr pollAfter
  split <;> rfl

theorem pollOutcome_eq (pending irq iPoll : Bool) : pollOutcome pending irq iPoll =
    if pending = true then some .nmi else if irq = true ∧ iPoll = false then some .irq else none := by
  simp only [pollOutcome, Bool.not_eq_true]

theorem mapNext_eq_next {g : State → State} {x : StepResult} {t : State} :
    mapNext g x = .next t ↔ ∃ u, x = .next u ∧ t = g u := by
  cases x <;> simp [mapNext, eq_comm]

/-- Settles O6: no instruction but BRK changes the pending NMI, none changes the input of the step, and the poll that
follows it gets the I of R246. -/
theorem pollAfterInstruction : Obligations.PollAfterInstruction := by
  intro s t i rest hr hl hcell hdecode hstep iPoll pending
  obtain ⟨hrun, -⟩ := step_of_cells hr hl hcell (cellRun_three s.mem s.pc ▸ hdecode)
  obtain ⟨v, hv, rfl⟩ := mapNext_eq_next.mp (hrun.symm.trans hstep)
  refine ⟨fun ho => ?brk, fun ho => ?polls⟩
  case brk =>
    have hnone : v.intLatch = none := intLatch_of_exec_brk ho hv
    rw [ho]
    exact hnone
  case polls =>
    have hi : (afterCellFetch s i.length).flags.i = s.flags.i := overflowPin_flags_i s
    have hv_pending : v.nmiPending = s.nmiPending :=
      (nmiPending_of_meaningOf (meaningOf_of_exec hv) ho).trans (overflowPin_nmiPending s)
    have hv_env : currentEnv v = currentEnv s :=
      currentEnv_congr ((Keeps.exec hv).inputs.trans (overflowPin_inputs s))
        ((Keeps.exec hv).steps.trans (overflowPin_steps s))
    have hpolled : finishInstr i.op (afterCellFetch s i.length).flags.i v = popInput (poll iPoll v) := by
      simp only [iPoll, finishInstr_flags]
      rw [finishInstr, pollAfter_of_ne_brk ho, hi]
    rw [hpolled, ← pollOutcome_eq]
    simp only [pending, ← hv_pending, ← hv_env]
    exact ⟨rfl, rfl⟩

end Sys2Proof.Machine
end

section
/-! SUPPORT. The cells and the reads of the stack: two and three bytes pushed (47_jump.md R197, R199), and a word or a
flags byte and a word read back (R198, R200). -/

namespace Sys2Proof.Machine

theorem stackAddr_ne {p q : Byte} (h : p ≠ q) : stackAddr p ≠ stackAddr q := fun he => h (stackAddr_injective he)

/-- Memory after two pushes; `pushWord_eq_ok` ties it to the stack operations. -/
def storeTwo (p : Platform) (m : Memory) (sp x y : Byte) : Memory :=
  cellStore p (cellStore p m (stackAddr sp) x) (stackAddr (sp - 1)) y

/-- Memory after three pushes; `takeInterrupt_eq_ok` ties it to the interrupt entry. -/
def storeThree (p : Platform) (m : Memory) (sp x y z : Byte) : Memory :=
  cellStore p (storeTwo p m sp x y) (stackAddr (sp - 2)) z

section
variable {p : Platform} {m : Memory} {sp x y z : Byte}

theorem wf_storeTwo (hm : m.wf = true) : (storeTwo p m sp x y).wf = true := wf_cellStore (wf_cellStore hm)

theorem cellAt_storeTwo_other {addr : Word} (h0 : addr ≠ stackAddr sp) (h1 : addr ≠ stackAddr (sp - 1)) :
    cellAt (storeTwo p m sp x y) addr = cellAt m addr := by
  rw [storeTwo, cellAt_cellStore_other _ _ _ h1, cellAt_cellStore_other _ _ _ h0]

theorem cellAt_storeTwo_not_ram {addr : Word} (h : kindAt p addr ≠ .ram) :
    cellAt (storeTwo p m sp x y) addr = cellAt m addr := by
  rw [storeTwo, cellAt_cellStore_not_ram h, cellAt_cellStore_not_ram h]

theorem cellAt_storeTwo_first (hm : m.wf = true) (h : kindAt p (stackAddr sp) = .ram) :
    cellAt (storeTwo p m sp x y) (stackAddr sp) = x := by
  rw [storeTwo, cellAt_cellStore_other _ _ _ (stackAddr_ne (by bv_omega)), cellAt_cellStore_same x hm h]

theorem cellAt_storeTwo_second (hm : m.wf = true) (h : kindAt p (stackAddr (sp - 1)) = .ram) :
    cellAt (storeTwo p m sp x y) (stackAddr (sp - 1)) = y :=
  cellAt_cellStore_same y (wf_cellStore hm) h

theorem cellAt_storeThree_other {addr : Word} (h0 : addr ≠ stackAddr sp) (h1 : addr ≠ stackAddr (sp - 1))
    (h2 : addr ≠ stackAddr (sp - 2)) : cellAt (storeThree p m sp x y z) addr = cellAt m addr := by
  rw [storeThree, cellAt_cellStore_other _ _ _ h2, cellAt_storeTwo_other h0 h1]

theorem cellAt_storeThree_first (hm : m.wf = true) (h : kindAt p (stackAddr sp) = .ram) :
    cellAt (storeThree p m sp x y z) (stackAddr sp) = x := by
  rw [storeThree, cellAt_cellStore_other _ _ _ (stackAddr_ne (by bv_omega)), cellAt_storeTwo_first hm h]

theorem cellAt_storeThree_second (hm : m.wf = true) (h : kindAt p (stackAddr (sp - 1)) = .ram) :
    cellAt (storeThree p m sp x y z) (stackAddr (sp - 1)) = y := by
  rw [storeThree, cellAt_cellStore_other _ _ _ (stackAddr_ne (by bv_omega)), cellAt_storeTwo_second hm h]

theorem cellAt_storeThree_third (hm : m.wf = true) (h : kindAt p (stackAddr (sp - 2)) = .ram) :
    cellAt (storeThree p m sp x y z) (stackAddr (sp - 2)) = z :=
  cellAt_cellStore_same z (wf_storeTwo hm) h

end

/-- A word whose bytes two reads give, from any state with the platform, the memory and the bus history of the first. -/
theorem readPair_of_memRead {addrLo addrHi : Word} {lo hi : Byte} {s t u1 u2 : State}
    (h1 : memRead addrLo s = .ok (lo, u1)) (h2 : memRead addrHi u1 = .ok (hi, u2))
    (hp : t.platform = s.platform) (hm : t.mem = s.mem) (hd : t.deviceIn = s.deviceIn)
    (hr : t.deviceReads = s.deviceReads) (ht : t.trace = s.trace) :
    readPair addrLo addrHi t = .ok (wordOf hi lo, t.withBus u2) := by
  have hframe := (memRead_frame h1).1
  have h2' := memRead_transport (t := t.withBus u1) h2 (by rw [← hframe]; exact hp) (by rw [← hframe]; exact hm)
    rfl rfl rfl
  exact readPair_eq_ok.mpr ⟨lo, _, hi, memRead_transport h1 hp hm hd hr ht, h2', rfl⟩

/-- The shared interrupt entry with mapped stack cells and a readable vector, from a state with some flags. -/
theorem takeInterrupt_of_memRead {ret vector : Word} {b : Bool} {f : Flags} {lo hi : Byte} {s u1 u2 : State}
    (k0 : kindAt s.platform (stackAddr s.sp) ≠ .unmapped)
    (k1 : kindAt s.platform (stackAddr (s.sp - 1)) ≠ .unmapped)
    (k2 : kindAt s.platform (stackAddr (s.sp - 2)) ≠ .unmapped)
    (h1 : memRead vector { s with
      mem := storeThree s.platform s.mem s.sp (hi8 ret) (lo8 ret) (packP b f)
      trace := .write (stackAddr (s.sp - 2)) (packP b f) :: .write (stackAddr (s.sp - 1)) (lo8 ret)
        :: .write (stackAddr s.sp) (hi8 ret) :: s.trace } = .ok (lo, u1))
    (h2 : memRead (vector + 1) u1 = .ok (hi, u2)) :
    takeInterrupt ret b vector (s.setFlags f) = .ok { s.withBus u2 with
      sp := s.sp - 3
      mem := storeThree s.platform s.mem s.sp (hi8 ret) (lo8 ret) (packP b f)
      flags := f.disableIrq
      pc := wordOf hi lo } := by
  refine takeInterrupt_eq_ok.mpr ⟨k0, k1, k2, wordOf hi lo, _, ?_, readPair_of_memRead h1 h2 rfl rfl rfl rfl rfl⟩
  rfl

theorem takeInterrupt_mem {ret vector : Word} {b : Bool} {s t : State} (h : takeInterrupt ret b vector s = .ok t) :
    t.mem = storeThree s.platform s.mem s.sp (hi8 ret) (lo8 ret) (packP b s.flags) := by
  obtain ⟨-, -, -, target, u, rfl, hu⟩ := takeInterrupt_eq_ok.mp h
  rw [← (read16_frame hu).1]
  rfl

/-- The shared return from an interrupt with readable stack cells. -/
theorem returnFromInterrupt_of_memRead {p lo hi : Byte} {s u1 u2 u3 : State}
    (h1 : memRead (stackAddr (s.sp + 1)) s = .ok (p, u1)) (h2 : memRead (stackAddr (s.sp + 2)) u1 = .ok (lo, u2))
    (h3 : memRead (stackAddr (s.sp + 3)) u2 = .ok (hi, u3)) :
    returnFromInterrupt s = .ok { s.withBus u3 with
      sp := s.sp + 3, flags := unpackP p, pc := wordOf hi lo } := by
  have e2 : s.sp + 1 + 1 = s.sp + 2 := by bv_omega
  have e3 : s.sp + 1 + 2 = s.sp + 3 := by bv_omega
  obtain ⟨w1, rfl⟩ : ∃ w, u1 = s.withBus w := ⟨u1, (memRead_frame h1).1.symm⟩
  obtain ⟨w2, rfl⟩ : ∃ w, u2 = s.withBus w := ⟨u2, (memRead_frame h2).1.symm⟩
  have h2' := memRead_transport (t := ((s.withBus w1).setSp (s.sp + 1)).setFlags (unpackP p)) h2 rfl rfl rfl rfl rfl
  have h3' := memRead_transport (t := ((s.withBus w2).setSp (s.sp + 1)).setFlags (unpackP p)) h3 rfl rfl rfl rfl rfl
  rw [← e2] at h2'
  rw [← e3] at h3'
  refine returnFromInterrupt_eq_ok.mpr ⟨p, _, _, _, pull_of_memRead h1, pullWord_of_memRead h2' h3', ?_⟩
  rw [← e3]
  rfl

end Sys2Proof.Machine
end

section
/-! SUPPORT. The proofs of O29 to O34 (47_jump.md R195 to R200): the jumps, calls and returns as whole next states. -/

namespace Sys2Proof.Machine

/-- Settles O29: JMP Absolute makes no access. -/
theorem jumpAbsolute : Obligations.JumpAbsolute := ⟨fun _ => rfl, fun _ _ => rfl⟩

/-- The second byte of an indirect pointer is at the next address where the low byte has no carry (R196). -/
theorem wordOf_lo8_add_one {p : Word} (h : lo8 p ≠ 0xFF) : wordOf (hi8 p) (lo8 p + 1) = p + 1 := by
  have hlo := toNat_lo8 p
  apply BitVec.eq_of_toNat_eq
  rw [toNat_wordOf, toNat_hi8]
  bv_omega

/-- Settles O30: the address of the second byte is arithmetic, the rest is the word of two reads. -/
theorem jumpIndirectPageDefect : Obligations.JumpIndirectPageDefect := by
  intro p s u1 u2 lo hi p2
  refine ⟨wordOf_lo8_add_one, fun h => ?_, fun h1 h2 => ?_⟩
  · simp only [p2, h]
    rfl
  · refine toOutcome_eq_next.mpr ?_
    rw [jumpIndirect, readPair_of_memRead h1 h2 rfl rfl rfl rfl rfl]
    rfl

/-- JSR with its two stack cells mapped (R197). -/
theorem exec_jsr {w : Word} {s : State} (hd : kindAt s.platform (stackAddr s.sp) ≠ .device)
    (k0 : kindAt s.platform (stackAddr s.sp) ≠ .unmapped)
    (k1 : kindAt s.platform (stackAddr (s.sp - 1)) ≠ .unmapped) :
    exec (.jsr w) s = .next { s with
      mem := storeTwo s.platform s.mem s.sp (hi8 (s.pc + 2)) (lo8 (s.pc + 2))
      sp := s.sp - 2
      pc := w
      cycles := s.cycles + 6
      trace := .write (stackAddr (s.sp - 1)) (lo8 (s.pc + 2)) :: .write (stackAddr s.sp) (hi8 (s.pc + 2))
        :: s.trace } := by
  refine toOutcome_eq_next.mpr ?_
  rw [jumpSubroutine, extraRead_bind_not_device hd, pushWord_eq_ok.mpr ⟨k0, k1, rfl⟩]
  rfl

/-- Settles O32: neither discarded read before the pull nor the one at the pulled address refuses RTS. -/
theorem returnFromSubroutine : Obligations.ReturnFromSubroutine := by
  refine ⟨rfl, fun s u1 u2 lo hi hpc hsp h1 h2 hk => toOutcome_eq_next.mpr ?_⟩
  rw [returnSubroutine, extraRead_bind_not_device hpc, extraRead_bind_not_device hsp, pullWord_of_memRead h1 h2,
    access_ok_bind]
  exact extraRead_bind_not_device hk _

/-- RTI with its three stack cells readable (R200): the shared return, after two discarded reads. -/
theorem exec_rti {s u1 u2 u3 : State} {p lo hi : Byte} (hpc : kindAt s.platform (s.pc + 1) ≠ .device)
    (hsp : kindAt s.platform (stackAddr s.sp) ≠ .device) (h1 : memRead (stackAddr (s.sp + 1)) s = .ok (p, u1))
    (h2 : memRead (stackAddr (s.sp + 2)) u1 = .ok (lo, u2)) (h3 : memRead (stackAddr (s.sp + 3)) u2 = .ok (hi, u3)) :
    exec .rti s = .next { s.withBus u3 with
      sp := s.sp + 3, pc := wordOf hi lo, cycles := s.cycles + 6, flags := unpackP p } := by
  refine toOutcome_eq_next.mpr ?_
  rw [returnInterrupt, extraRead_bind_not_device hpc, extraRead_bind_not_device hsp,
    returnFromInterrupt_of_memRead h1 h2 h3]
  rfl

/-- Settles O33: the shared entry with B = 1, through the vector of whichever interrupt takes the BRK; an edge that
does not take it over is held. -/
theorem breakInstruction : Obligations.BreakInstruction := by
  refine ⟨rfl, ?_⟩
  intro s u1 u2 lo hi hwf e hijack ret p a0 a1 a2 m3 v hk k0 k1 k2 h1 h2
  have hentry := takeInterrupt_of_memRead (f := s.flags) k0 k1 k2 h1 h2
  have hpending : (if hijack = true then false else e.nmiEdge) = (!hijack && e.nmiEdge) := by
    cases hijack <;> rfl
  refine ⟨?_, fun _ => cellAt_storeThree_other, cellAt_storeThree_first hwf, cellAt_storeThree_second hwf,
    cellAt_storeThree_third hwf⟩
  rw [hpending]
  exact toOutcome_eq_next.mpr (breakInterrupt_eq_ok.mpr ⟨hk, _, hentry, rfl⟩)

end Sys2Proof.Machine

namespace Sys2Proof

open Machine in
/-- Settles O31: the cells after the two pushes are those of `storeTwo`, whatever the kinds of their addresses. The
theorem stands outside `Machine`, where the model's own `jumpSubroutine` has the name. -/
theorem jumpSubroutine : Obligations.JumpSubroutine := by
  refine ⟨fun _ => rfl, ?_⟩
  intro w s hwf ret a0 a1 hd k0 k1
  exact ⟨_, exec_jsr hd k0 k1, fun _ => cellAt_storeTwo_other, cellAt_storeTwo_first hwf,
    cellAt_storeTwo_second hwf, cellAt_storeTwo_not_ram, cellAt_storeTwo_not_ram⟩

open Machine in
/-- Settles O34, by `exec_rti`; the six flags are those of `unpackP`. The theorem stands outside `Machine`, where the
model's own `returnFromInterrupt` has the name. -/
theorem returnFromInterrupt : Obligations.ReturnFromInterrupt := by
  refine ⟨rfl, fun s u1 u2 u3 p lo hi hpc hsp h1 h2 h3 => ?_⟩
  exact exec_rti hpc hsp h1 h2 h3

end Sys2Proof
end

section
/-! SUPPORT. The proofs of O52 and O53 (47_jump.md R201): on `ram` a return pulls what the call or the BRK pushed. -/

namespace Sys2Proof.Machine

/-- JSR on `ram`: the return address is in the two cells at SP, and of the registers only SP changes. -/
theorem exec_jsr_of_allRam (w : Word) {s : State} (hs : AllRam s.platform) :
    ∃ t, exec (.jsr w) s = .next t ∧ t.registers = { s.registers with sp := s.sp - 2 } ∧
      t.mem = storeTwo s.platform s.mem s.sp (hi8 (s.pc + 2)) (lo8 (s.pc + 2)) := by
  refine ⟨_, exec_jsr ?_ ?_ ?_, rfl, rfl⟩ <;> simp [hs.kindAt]

/-- RTS on `ram`: PC is the word above SP plus 1, and of the registers only SP changes. -/
theorem exec_rts_of_allRam {s : State} (hs : AllRam s.platform) :
    ∃ t, exec .rts s = .next t ∧ t.registers = { s.registers with sp := s.sp + 2 } ∧
      t.pc = cellPair s.mem (stackAddr (s.sp + 1)) (stackAddr (s.sp + 2)) + 1 := by
  have hread1 := memRead_cell (s := s) (.inl (hs (stackAddr (s.sp + 1))))
  refine ⟨_, returnFromSubroutine.2 s _ _ _ _ ?_ ?_ hread1 (memRead_cell (.inl (hs _))) ?_, rfl, rfl⟩ <;>
    simp [hs.kindAt]

/-- Settles O52: RTS finds the return address where JSR put it, and SP comes back. -/
theorem callThenReturn : Obligations.CallThenReturn := by
  intro w s hs hwf
  obtain ⟨u, hu, hur, hum⟩ := exec_jsr_of_allRam w hs
  obtain ⟨t, ht, htr, htpc⟩ := exec_rts_of_allRam (s := u) (by rwa [(Keeps.exec hu).platform])
  obtain ⟨ha, hx, hy, hsp, hflags⟩ := Registers.mk.inj hur
  obtain ⟨ha', hx', hy', hsp', hflags'⟩ := Registers.mk.inj htr
  have e1 : s.sp - 2 + 1 = s.sp - 1 := by bv_omega
  have e2 : s.sp - 2 + 2 = s.sp := by bv_omega
  have hpc : t.pc = s.pc + 2 + 1 := by
    rw [htpc, hsp, hum, e1, e2, cellPair, cellAt_storeTwo_first hwf (hs _), cellAt_storeTwo_second hwf (hs _),
      wordOf_hi8_lo8]
  exact ⟨t, (execAll_cons hu).trans (execAll_cons ht), by rw [hpc]; bv_omega, by rw [hsp', hsp, e2],
    hflags'.trans hflags, ha'.trans ha, hx'.trans hx, hy'.trans hy⟩

/-- BRK on `ram`, hijacked or not: the return address and the flags with B = 1 are in the three cells at SP, and A, X
and Y stay. -/
theorem exec_brk_of_allRam {s : State} (hs : AllRam s.platform) :
    ∃ t, exec .brk s = .next t ∧
      t.registers = { s.registers with sp := s.sp - 3, flags := s.flags.disableIrq } ∧
      t.mem = storeThree s.platform s.mem s.sp (hi8 (s.pc + 2)) (lo8 (s.pc + 2)) (packP true s.flags) := by
  obtain ⟨t, ht⟩ := hs.exists_ok fun _ => AtPlatform.breakInterrupt
  obtain ⟨-, u, hu, rfl⟩ := breakInterrupt_eq_ok.mp ht
  exact ⟨_, toOutcome_eq_next.mpr ht, (takeInterrupt_registers hu).1, (takeInterrupt_mem hu :)⟩

/-- RTI on `ram`: the flags are those of the byte above SP and PC is the word above it; A, X and Y stay. -/
theorem exec_rti_of_allRam {s : State} (hs : AllRam s.platform) :
    ∃ t, exec .rti s = .next t ∧ t.registers = { s.registers with
        sp := s.sp + 3, flags := unpackP (cellAt s.mem (stackAddr (s.sp + 1))) } ∧
      t.pc = cellPair s.mem (stackAddr (s.sp + 2)) (stackAddr (s.sp + 3)) := by
  have hread1 := memRead_cell (s := s) (.inl (hs (stackAddr (s.sp + 1))))
  refine ⟨_, exec_rti ?_ ?_ hread1 (memRead_cell (.inl (hs _))) (memRead_cell (.inl (hs _))), rfl, rfl⟩ <;>
    simp [hs.kindAt]

/-- Settles O53: RTI finds the flags and the return address where BRK put them, and SP comes back. -/
theorem breakThenReturn : Obligations.BreakThenReturn := by
  intro s hs hwf
  obtain ⟨u, hu, hur, hum⟩ := exec_brk_of_allRam hs
  obtain ⟨t, ht, htr, htpc⟩ := exec_rti_of_allRam (s := u) (by rwa [(Keeps.exec hu).platform])
  obtain ⟨ha, hx, hy, hsp, -⟩ := Registers.mk.inj hur
  obtain ⟨ha', hx', hy', hsp', hflags'⟩ := Registers.mk.inj htr
  have e1 : s.sp - 3 + 1 = s.sp - 2 := by bv_omega
  have e2 : s.sp - 3 + 2 = s.sp - 1 := by bv_omega
  have e3 : s.sp - 3 + 3 = s.sp := by bv_omega
  have hpc : t.pc = s.pc + 2 := by
    rw [htpc, hsp, hum, e2, e3, cellPair, cellAt_storeThree_first hwf (hs _), cellAt_storeThree_second hwf (hs _),
      wordOf_hi8_lo8]
  have hflags : t.flags = s.flags := by
    rw [hflags', hsp, hum, e1, cellAt_storeThree_third hwf (hs _), unpackP_packP]
  exact ⟨t, (execAll_cons hu).trans (execAll_cons ht), hpc, by rw [hsp', hsp, e3], hflags, ha'.trans ha,
    hx'.trans hx, hy'.trans hy⟩

end Sys2Proof.Machine
end

section
/-! SUPPORT. The proofs of O35, O36 and O37 (48_stack.md R210 to R213, 49_flags_other.md R220 to R227): the stack
instructions on one byte, and the instructions that write one flag. -/

namespace Sys2Proof.Machine

/-- PHA and PHP push their byte (R210, R212). -/
theorem exists_pushRegister_of_op {i : Instr} {s : State} {v : Byte}
    (h : (i.op = .pha ∧ v = s.a) ∨ (i.op = .php ∧ v = packP true s.flags)) :
    ∃ value : State → Byte, value s = v ∧ exec i s = toOutcome (pushRegister value s) := by
  obtain ⟨x, hm, hx⟩ := meaningOf_eq_some i s
  rcases h with ⟨ho, rfl⟩ | ⟨ho, rfl⟩ <;> rw [ho] at hm <;> obtain ⟨-, rfl⟩ := onImplied_eq_some.mp hm <;>
    exact ⟨_, rfl, hx⟩

/-- The stack lies in page 1 (10_state.md R23). -/
theorem stackAddr_eq_wordOf (sp : Byte) : stackAddr sp = wordOf 0x01 sp := by
  apply BitVec.eq_of_toNat_eq
  rw [toNat_wordOf, stackAddr]
  bv_omega

/-- Settles O35: the cells after the push are those of `cellStore`, whatever the kind of the address. -/
theorem pushInstructions : Obligations.PushInstructions := by
  refine ⟨rfl, fun i s v ho hwf hk hmapped => ?_, stackAddr_eq_wordOf⟩
  obtain ⟨value, hvalue, hx⟩ := exists_pushRegister_of_op ho
  have hpush := pushRegister_eq_ok (value := value).mpr ⟨hk, _, push_eq_ok.mpr ⟨hmapped, rfl⟩, rfl⟩
  rw [hvalue] at hpush
  exact ⟨cellStore s.platform s.mem (stackAddr s.sp) v, hx.trans (toOutcome_eq_next.mpr hpush),
    fun _ hne => cellAt_cellStore_other _ _ v hne, cellAt_cellStore_same v hwf, cellStore_not_ram⟩

/-- Settles O36: both pull the byte above SP after the two discarded reads; what they do with it is their meaning. -/
theorem pullInstructions : Obligations.PullInstructions := by
  refine ⟨rfl, ?_⟩
  intro s u v hpc hsp hread t
  have hpull := pull_of_memRead hread
  exact ⟨toOutcome_eq_next.mpr (pullRegister_eq_ok.mpr ⟨hpc, hsp, v, _, hpull, rfl⟩),
    toOutcome_eq_next.mpr (pullRegister_eq_ok.mpr ⟨hpc, hsp, v, _, hpull, rfl⟩)⟩

/-- Settles O37: each is `exec_of_implied` with its own constant; the poll of CLI and of SEI gets the I from before
(`pollAfter_of_ne_brk`). -/
theorem flagInstructionsAndNop : Obligations.FlagInstructionsAndNop := by
  refine ⟨rfl, fun s hk => ⟨?clc, ?sec, ?cli, ?sei, ?cld, ?sed, ?clv, ?nop⟩, fun before s => ⟨?pollCli, ?pollSei⟩⟩
  case clc => exact exec_of_implied (fun s => s.setFlags { s.flags with c := false }) rfl hk
  case sec => exact exec_of_implied (fun s => s.setFlags { s.flags with c := true }) rfl hk
  case cli => exact exec_of_implied (fun s => s.setFlags { s.flags with i := false }) rfl hk
  case sei => exact exec_of_implied (fun s => s.setFlags { s.flags with i := true }) rfl hk
  case cld => exact exec_of_implied (fun s => s.setFlags { s.flags with d := false }) rfl hk
  case sed => exact exec_of_implied (fun s => s.setFlags { s.flags with d := true }) rfl hk
  case clv => exact exec_of_implied (fun s => s.setFlags { s.flags with v := false }) rfl hk
  case nop => exact exec_of_implied (fun s => s) rfl hk
  case pollCli => exact congrArg popInput (pollAfter_of_ne_brk (o := .cli) (by decide) before s)
  case pollSei => exact congrArg popInput (pollAfter_of_ne_brk (o := .sei) (by decide) before s)

end Sys2Proof.Machine
end

section
/-! SUPPORT. The proofs of O7, O8 and O47 (60_exceptions.md R250, R240, 70_reset_and_hazards.md R280): the interrupt
sequence and reset as whole next states, and what every step keeps. -/

namespace Sys2Proof.Machine

/-- A step that is an interrupt sequence, from what the sequence gives. -/
theorem step_of_interruptEntry {s t : State} {kind : Interrupt} (hr : resetNext s = false)
    (hl : s.intLatch = some kind) (h : interruptEntry kind (overflowPin s) = .ok t) : step s = .next (popInput t) := by
  rw [step_interrupt hr hl, stepInterrupt, toOutcome_eq_next]
  exact access_map_eq_ok.mpr ⟨t, h, rfl⟩

/-- Settles O7: the shared entry with B = 0, from the state with the flags that the overflow pin leaves. -/
theorem interruptSequence : Obligations.InterruptSequence := by
  intro s u1 u2 kind lo hi hr hl hwf s0 a0 a1 a2 m3 v hk k0 k1 k2 h1 h2
  have hv : v = vectorOf s.platform kind := by cases kind <;> rfl
  rw [hv] at h1 h2
  have htake := takeInterrupt_of_memRead (f := s0.flags) k0 k1 k2 h1 h2
  have hentry := (congrArg (interruptEntry kind) (overflowPin_eq s)).trans
    (interruptEntry_eq_ok.mpr ⟨hk, _, htake, rfl⟩)
  refine ⟨⟨s.cycles + 7, ?_⟩, fun _ => cellAt_storeThree_other, cellAt_storeThree_first hwf,
    cellAt_storeThree_second hwf, cellAt_storeThree_third hwf⟩
  rw [step_of_interruptEntry hr hl hentry]
  cases kind <;> rfl

/-- Settles O8: reset reads its vector, whatever is latched or pending, and the rest are its draws. -/
theorem resetTransition : Obligations.ResetTransition := by
  intro s u1 u2 d lo hi hi_reset h1 h2
  have hread : read16 s.platform.resetVector s = .ok (wordOf hi lo, s.withBus u2) :=
    readPair_of_memRead h1 h2 rfl rfl rfl rfl rfl
  refine ⟨s.cycles + 7, ?_⟩
  rw [step_reset hi_reset, stepReset, toOutcome_eq_next]
  exact access_map_eq_ok.mpr ⟨_, takeReset_eq_ok.mpr ⟨_, _, hread, rfl⟩, rfl⟩

/-- At least one access is added in front of the event history. -/
def Grows (s t : State) : Prop := ∃ new : List Event, new ≠ [] ∧ t.trace = new ++ s.trace

theorem Grows.after {s t u : State} (k : Keeps s t) (h : Grows t u) : Grows s u := by
  obtain ⟨old, hold⟩ := k.history
  obtain ⟨new, hne, hnew⟩ := h
  exact ⟨new ++ old, by simp [hne], by rw [hnew, hold, List.append_assoc]⟩

theorem Grows.andThen {s t u : State} (h : Grows s t) (k : Keeps t u) : Grows s u := by
  obtain ⟨old, hne, hold⟩ := h
  obtain ⟨new, hnew⟩ := k.history
  exact ⟨new ++ old, by simp [hne], by rw [hnew, hold, List.append_assoc]⟩

theorem Grows.read16 {addr w : Word} {s t : State} (h : Machine.read16 addr s = .ok (w, t)) : Grows s t := by
  obtain ⟨-, b, c, ht⟩ := read16_frame h
  exact ⟨[_, _], nofun, ht⟩

theorem Grows.takeReset {d : ResetDraw} {s t : State} (h : Machine.takeReset d s = .ok t) : Grows s t := by
  obtain ⟨w, u, hu, rfl⟩ := takeReset_eq_ok.mp h
  exact (Grows.read16 hu :)

theorem Grows.interruptEntry {kind : Interrupt} {s t : State} (h : Machine.interruptEntry kind s = .ok t) :
    Grows s t := by
  obtain ⟨-, u, hu, rfl⟩ := interruptEntry_eq_ok.mp h
  obtain ⟨-, -, -, target, u', rfl, hread⟩ := takeInterrupt_eq_ok.mp hu
  obtain ⟨new, hne, hnew⟩ := Grows.read16 hread
  exact ⟨_, by simp, hnew.trans (List.append_assoc new [_, _, _] s.trace).symm⟩

theorem Grows.fetch {i : Instr} {s t : State} (h : Machine.fetch s = .ok (i, t)) : Grows s t := (fetch_frame h).2

/-- What follows an instruction takes the input of the step. -/
theorem finishInstr_frame (o : Op) (before : Bool) (s : State) :
    (finishInstr o before s).platform = s.platform ∧ (finishInstr o before s).inputs = s.inputs.tail ∧
    (finishInstr o before s).steps = s.steps + 1 ∧ (finishInstr o before s).trace = s.trace := by
  unfold finishInstr pollAfter
  split <;> exact ⟨rfl, rfl, rfl, rfl⟩

/-- Every step, of whatever kind, ends by taking its input in a state that keeps what the operations keep and whose
history grew. -/
theorem exists_grows_of_step {s t : State} (h : step s = .next t) : ∃ u, Keeps s u ∧ Grows s u ∧
    t.platform = u.platform ∧ t.inputs = u.inputs.tail ∧ t.steps = u.steps + 1 ∧ t.trace = u.trace := by
  rcases step_cases h with ⟨d, u, -, hu, rfl⟩ | ⟨kind, u, -, -, hu, rfl⟩ | ⟨i, u, v, -, -, hf, hv, rfl⟩
  · exact ⟨u, .takeReset hu, .takeReset hu, rfl, rfl, rfl, rfl⟩
  · have hpin := Keeps.overflowPin s
    exact ⟨u, hpin.trans (.interruptEntry hu), .after hpin (.interruptEntry hu), rfl, rfl, rfl, rfl⟩
  · have hpin := Keeps.overflowPin s
    exact ⟨v, (hpin.trans (.fetch hf)).trans (.exec hv), (Grows.after hpin (.fetch hf)).andThen (.exec hv),
      finishInstr_frame _ _ _⟩

/-- Settles O47, by `exists_grows_of_step`. -/
theorem stepKeepsParameters : Obligations.StepKeepsParameters := by
  intro s t h
  obtain ⟨u, hkeeps, ⟨new, hne, hnew⟩, hp, hi, hn, ht⟩ := exists_grows_of_step h
  exact ⟨hp.trans hkeeps.platform, by rw [hi, hkeeps.inputs], by rw [hn, hkeeps.steps], new, hne, ht.trans hnew⟩

end Sys2Proof.Machine
end

section
/-! SUPPORT. The proof of O14 (70_reset_and_hazards.md R295): the table of cycle counts, column by column. -/

namespace Sys2Proof.Machine

theorem add_bitNat (n : Nat) (b : Bool) : n + bitNat b = if b then n + 1 else n := by cases b <;> rfl

/-- Settles O14: the columns are evaluated; a page crossing adds its cycle in three modes of the read kind. -/
theorem cycleTable : Obligations.CycleTable := by
  refine ⟨fun b w p => ?read, fun b w => rfl, fun b w => rfl⟩
  case read => simp only [List.map_cons, List.map_nil, readCycles, add_bitNat]

end Sys2Proof.Machine
end
